-- ==== Sys2Proof/Word.lean ====
section
/-! DEFINITION. The words of the block: 32-bit registers and commands (R6 REG_WIDTH, R100), 8-bit samples
(R6 PIXEL_BITS, R70) and buffer handles (R38). -/

namespace Sys2Proof

/-- A register value, a command word or a Q16.16 pattern: 32 bits (R6, R8, R100). -/
abbrev Word := BitVec 32

/-- One byte of pixel memory, one unsigned channel sample (R6, R70). -/
abbrev Byte := BitVec 8

/-- A buffer handle: the number 0 to 15 of a descriptor slot (R38, R109). -/
abbrev Handle := Fin 16

end Sys2Proof
end

