-- ==== Sys2Proof/Syntax.lean ====
section
/-! DEFINITION. The command set BSC-1: one constructor per row of the opcode map (R106), with the fields of R101 that
its format names (R102 to R105). -/

namespace Sys2Proof

/-- The scale kind SK of `NN_SCALE` and `BL_SCALE` (R101, R220): 0 is a float ratio, 1 a rational pair. -/
inductive ScaleKind where
  | float
  | rational
  deriving DecidableEq, Repr

/-- The 21 commands of R106. `ha` and `hb` are the handle fields, `ch` the channel-count field, `sk` the scale kind.
`ch` is a plain number: that it fits its two bits is `Instr.WellFormed`. -/
inductive Instr where
  | nop
  | bufCreate (ha : Handle) (ch : Nat)
  | bufRelease (ha : Handle)
  | fxToFix
  | fxToFlt
  | fxFromInt
  | fxAdd
  | fxSub
  | fxMul
  | fxDiv
  | fxInt
  | fxFrac
  | mapStep
  | mapCenter
  | mapOrigin
  | clamp
  | mapNeigh
  | nnSample (ha : Handle)
  | blSample (ha : Handle)
  | nnScale (ha hb : Handle) (sk : ScaleKind)
  | blScale (ha hb : Handle) (sk : ScaleKind)
  deriving DecidableEq, Repr

end Sys2Proof
end

