-- ==== Sys2Proof/WellFormed.lean ====
section
/-! DEFINITION. Which terms of `Instr` stand for a command word: every field fits the bits R101 gives it. The handle
fields are bounded by their type and the scale kind has exactly its two values, so the one check left is the channel
field of `BUF_CREATE`. -/

namespace Sys2Proof

/-- Every field of the command fits its encoding (R101). All four values of the 2-bit CH field are well formed: 0 and 2
decode and are rejected at execution (R104, R131). -/
def Instr.WellFormed : Instr → Bool
  | .bufCreate _ ch => decide (ch < 4)
  | .nop => true
  | .bufRelease _ => true
  | .fxToFix => true
  | .fxToFlt => true
  | .fxFromInt => true
  | .fxAdd => true
  | .fxSub => true
  | .fxMul => true
  | .fxDiv => true
  | .fxInt => true
  | .fxFrac => true
  | .mapStep => true
  | .mapCenter => true
  | .mapOrigin => true
  | .clamp => true
  | .mapNeigh => true
  | .nnSample _ => true
  | .blSample _ => true
  | .nnScale _ _ _ => true
  | .blScale _ _ _ => true

end Sys2Proof
end

