-- ==== Sys2Proof/Decode.lean ====
section
/-! DEFINITION. The decoder and the encoder of command words (R100 to R108): opcodes, formats, reserved bits. -/

namespace Sys2Proof

/-- The four formats of R102 to R105. -/
inductive Format where
  /-- no fields (R102) -/
  | n
  /-- one handle (R103) -/
  | h
  /-- create: a handle and a channel count (R104) -/
  | c
  /-- scale: two handles and a scale kind (R105) -/
  | s
  deriving DecidableEq, Repr

/-- The opcodes of R106, one per command. -/
inductive Opcode where
  | nop | bufCreate | bufRelease
  | fxToFix | fxToFlt | fxFromInt | fxAdd | fxSub | fxMul | fxDiv | fxInt | fxFrac
  | mapStep | mapCenter | mapOrigin | clamp | mapNeigh
  | nnSample | blSample | nnScale | blScale
  deriving DecidableEq, Repr

/-- Why a word is illegal (R107). -/
inductive DecodeError where
  /-- the OP field is none of R106 -/
  | reservedOpcode
  /-- a bit that the format does not name is 1 -/
  | reservedBits
  deriving DecidableEq, Repr

/-- The OP field of a command word, bits [7:0] (R101). -/
def opField (w : Word) : BitVec 8 := w.extractLsb' 0 8

/-- Handle A, bits [11:8] (R101). -/
def haField (w : Word) : Handle := (w.extractLsb' 8 4).toFin

/-- Handle B, bits [15:12] (R101). -/
def hbField (w : Word) : Handle := (w.extractLsb' 12 4).toFin

/-- The channel count, bits [17:16] (R101). -/
def chField (w : Word) : Nat := (w.extractLsb' 16 2).toNat

/-- The scale kind, bit [16] (R101). -/
def skField (w : Word) : ScaleKind := if w.getLsbD 16 then .rational else .float

/-- The opcode map (R106); every other value of OP is reserved (R107). -/
def opcodeOf (op : BitVec 8) : Option Opcode :=
  match op.toNat with
  | 0x00 => some .nop
  | 0x01 => some .bufCreate
  | 0x02 => some .bufRelease
  | 0x10 => some .fxToFix
  | 0x11 => some .fxToFlt
  | 0x12 => some .fxFromInt
  | 0x13 => some .fxAdd
  | 0x14 => some .fxSub
  | 0x15 => some .fxMul
  | 0x16 => some .fxDiv
  | 0x17 => some .fxInt
  | 0x18 => some .fxFrac
  | 0x20 => some .mapStep
  | 0x21 => some .mapCenter
  | 0x22 => some .mapOrigin
  | 0x23 => some .clamp
  | 0x24 => some .mapNeigh
  | 0x30 => some .nnSample
  | 0x31 => some .blSample
  | 0x40 => some .nnScale
  | 0x41 => some .blScale
  | _ => none

/-- The format of each command (R106). -/
def Opcode.format : Opcode → Format
  | .bufCreate => .c
  | .bufRelease | .nnSample | .blSample => .h
  | .nnScale | .blScale => .s
  | .nop | .fxToFix | .fxToFlt | .fxFromInt | .fxAdd | .fxSub | .fxMul | .fxDiv | .fxInt | .fxFrac
  | .mapStep | .mapCenter | .mapOrigin | .clamp | .mapNeigh => .n

/-- The bits a format does not name, which must be 0 (R101 to R105): the match mask without OP. -/
def Format.reservedMask : Format → Word
  | .n => 0xFFFFFF00#32
  | .h => 0xFFFFF000#32
  | .c => 0xFFFCF000#32
  | .s => 0xFFFE0000#32

/-- The command a legal word of this opcode stands for: its fields pulled out (R101). -/
def Opcode.instr (op : Opcode) (w : Word) : Instr :=
  match op with
  | .nop => .nop
  | .bufCreate => .bufCreate (haField w) (chField w)
  | .bufRelease => .bufRelease (haField w)
  | .fxToFix => .fxToFix
  | .fxToFlt => .fxToFlt
  | .fxFromInt => .fxFromInt
  | .fxAdd => .fxAdd
  | .fxSub => .fxSub
  | .fxMul => .fxMul
  | .fxDiv => .fxDiv
  | .fxInt => .fxInt
  | .fxFrac => .fxFrac
  | .mapStep => .mapStep
  | .mapCenter => .mapCenter
  | .mapOrigin => .mapOrigin
  | .clamp => .clamp
  | .mapNeigh => .mapNeigh
  | .nnSample => .nnSample (haField w)
  | .blSample => .blSample (haField w)
  | .nnScale => .nnScale (haField w) (hbField w) (skField w)
  | .blScale => .blScale (haField w) (hbField w) (skField w)

/-- Decoding is total: a word selects one row of R106 or is illegal, by name (R107, R108). -/
def decode (w : Word) : Except DecodeError Instr :=
  match opcodeOf (opField w) with
  | none => .error .reservedOpcode
  | some op =>
    if w &&& op.format.reservedMask = 0#32 then .ok (op.instr w) else .error .reservedBits

/-- The bits of SK (R101). -/
def ScaleKind.bit : ScaleKind → Nat
  | .float => 0
  | .rational => 1

/-- The word of a command, `OP | HA << 8 | HB << 12 | CH << 16 | SK << 16` with absent fields 0 (R111), as a sum of
fields that do not overlap. -/
def fieldsWord (op ha hb top : Nat) : Word :=
  BitVec.ofNat 32 (op + ha * 0x100 + hb * 0x1000 + top * 0x10000)

/-- The word of a well-formed command (R102 to R106, R111). -/
def encode : Instr → Word
  | .nop => fieldsWord 0x00 0 0 0
  | .bufCreate ha ch => fieldsWord 0x01 ha.val 0 ch
  | .bufRelease ha => fieldsWord 0x02 ha.val 0 0
  | .fxToFix => fieldsWord 0x10 0 0 0
  | .fxToFlt => fieldsWord 0x11 0 0 0
  | .fxFromInt => fieldsWord 0x12 0 0 0
  | .fxAdd => fieldsWord 0x13 0 0 0
  | .fxSub => fieldsWord 0x14 0 0 0
  | .fxMul => fieldsWord 0x15 0 0 0
  | .fxDiv => fieldsWord 0x16 0 0 0
  | .fxInt => fieldsWord 0x17 0 0 0
  | .fxFrac => fieldsWord 0x18 0 0 0
  | .mapStep => fieldsWord 0x20 0 0 0
  | .mapCenter => fieldsWord 0x21 0 0 0
  | .mapOrigin => fieldsWord 0x22 0 0 0
  | .clamp => fieldsWord 0x23 0 0 0
  | .mapNeigh => fieldsWord 0x24 0 0 0
  | .nnSample ha => fieldsWord 0x30 ha.val 0 0
  | .blSample ha => fieldsWord 0x31 ha.val 0 0
  | .nnScale ha hb sk => fieldsWord 0x40 ha.val hb.val sk.bit
  | .blScale ha hb sk => fieldsWord 0x41 ha.val hb.val sk.bit

/-- The command the decoder reads from the `nbits` low bits of `w`, the bits above them 0. Every command is one 32-bit
word written to CMD as a whole (R100, R108), so the word needs no laying out in bytes. -/
def decodeTableWord (nbits w : Nat) : Option Instr :=
  match decode (BitVec.ofNat 32 (w % 2 ^ nbits)) with
  | .ok i => some i
  | .error _ => none

end Sys2Proof
end

