-- ==== Sys2Proof/Config.lean ====
section
/-! DEFINITION. What an implementation fixes, and the one value the spec leaves free. PIXMEM_BYTES and BSC_BASE, the two
open parameters a state of the block depends on, are fields of State: a step takes them as arguments. -/

namespace Sys2Proof.Config

/-- MAX_DIM: the largest width or height of a buffer (R6, D9). -/
def maxDim : Nat := 32767

/-- The largest PIXMEM_BYTES an implementation may have, 2^24 (R6, R70). -/
def pixmemMax : Nat := 16777216

/-- The default PIXMEM_BYTES, used by the spec's test vectors (R6, D7). -/
def pixmemDefault : Nat := 65536

/-- FREE VALUE (log 3). The value of the byte at pixel-memory address `addr` while nothing has written it since the
`resets`-th reset: "every byte holds an arbitrary value" (R44), which may differ between bytes and between resets
(R292, U1). It has no body: no statement can rest on what it is. -/
opaque unwrittenByte (resets addr : Nat) : Byte

end Sys2Proof.Config
end

