-- ==== Sys2Proof/Machine/State.lean ====
section
/-! DEFINITION. The state of the block (10_state.md), of its two platform parameters, and of the host accesses that are
still to come: plain data. -/

namespace Sys2Proof.Machine

/-- The two coordinate policies of `CTRL.MAP_MODE` (R32): 0 is center-aligned, 1 origin-aligned. -/
inductive MapMode where
  | center
  | origin
  deriving DecidableEq, Repr

/-- The codes of `STATUS.ERR` (R260). Codes 6 to 15 are never produced (U10): they have no name (log 18). -/
inductive ErrorCode where
  | none
  | invalidParameter
  | allocationFailure
  | divByZero
  | overflow
  | illegalCommand
  deriving DecidableEq, Repr

/-- One buffer descriptor slot (R38). -/
structure Slot where
  valid : Bool
  ch : BitVec 2
  width : Word
  height : Word
  base : Word
  deriving DecidableEq, Repr

/-- A free slot: VALID = 0 and every other field 0 (R38). -/
def Slot.free : Slot := ⟨false, 0#2, 0#32, 0#32, 0#32⟩

/-- The operand latch (R36): what the running command reads. -/
structure Latch where
  arg0 : Word
  arg1 : Word
  arg2 : Word
  mapMode : MapMode
  deriving DecidableEq, Repr

/-- Pixel memory: the bytes written since the last reset, addresses strictly rising. An address not listed holds no
value the block or the host has given it: it reads as the free value `Config.unwrittenByte` (R292, log 3). -/
abbrev Memory := List Host.Cell

/-- What the outside world does to the block: one host access at a bus address with a width in bytes (R75 to R77), or a
change of the platform's reset line (R290; one host: log 22). -/
inductive HostInput where
  | read (addr width : Nat)
  | write (addr width : Nat) (data : Word)
  | resetAssert
  | resetRelease
  deriving DecidableEq, Repr

/-- The two agents that can move while a command runs (R3). -/
inductive Agent where
  | host
  | engine
  deriving DecidableEq, Repr

/-- The response the host gets on its bus to one access. -/
inductive BusResponse where
  /-- a read is answered with this value, zero-extended to 32 bits (R76, R77, R80, log 19) -/
  | data (v : Word)
  /-- a write is accepted (R76, R77, R80), a dropped CMD write too (log 20) -/
  | done
  /-- the access is rejected and changed nothing; no data (R76, R77, R269) -/
  | busError
  /-- the address is not in the block's 32 MiB window (R75): the access is not for this block (log 13) -/
  | notSelected
  /-- reset is asserted: the block accepts no access and the spec defines no response (R290, log 14) -/
  | noResponse
  deriving DecidableEq, Repr

/-- The machine. -/
structure State where
  /-- PIXMEM_BYTES, fixed by the platform: no step writes it (R6, R70, log 1) -/
  pixmemBytes : Nat
  /-- BSC_BASE, fixed by the platform: no step writes it (R75, log 2) -/
  bscBase : Nat
  /-- CTRL.MAP_MODE (R32) -/
  mapMode : MapMode
  /-- STATUS.BUSY, and with it the engine's state: idle or running `lastCmd` (R33, R42) -/
  busy : Bool
  /-- STATUS.ERR (R33, R260) -/
  err : ErrorCode
  /-- STATUS.ERR_STICKY (R33) -/
  errSticky : Bool
  /-- STATUS.OVERRUN (R33, R267) -/
  overrun : Bool
  /-- STATUS.BUSY_ACCESS (R33, R268) -/
  busyAccess : Bool
  /-- LASTCMD, the last accepted command word (R34): while BUSY = 1 it is the running one (log 6) -/
  lastCmd : Word
  arg0 : Word
  arg1 : Word
  arg2 : Word
  res0 : Word
  res1 : Word
  res2 : Word
  /-- the operand latch (R36); its value while BUSY = 0 is the model's choice (U7, log 4) -/
  latch : Latch
  /-- the descriptor file D[0] to D[15] (R38) -/
  slots : Vector Slot 16
  /-- pixel memory (R41, R70) -/
  mem : Memory
  /-- the platform's reset line is asserted (R290) -/
  resetAsserted : Bool
  /-- MODEL'S OWN: how many resets there have been, the index of the free draw of unwritten bytes (log 3) -/
  resets : Nat
  /-- MODEL'S OWN: what the host will still do, oldest first (R84, log 7) -/
  hostQueue : List HostInput
  /-- MODEL'S OWN: who moves at each of the next steps that find BUSY = 1; none left means the engine (R298, log 5) -/
  turns : List Agent
  /-- MODEL'S OWN: the responses the host got, newest first (log 7) -/
  busLog : List BusResponse
  deriving DecidableEq, Repr

/-- Why a step stops the machine. -/
inductive Fault where
  /-- Raised by `NN_SAMPLE`, `BL_SAMPLE`, `NN_SCALE` and `BL_SCALE` where the source slot is valid and breaks the clauses
  of R40 about a slot: its pixels need not exist in pixel memory and its sizes have no meaning. No run reaches such a
  slot (R40). SAFE: the machine stops where the spec describes no behaviour (log 16). -/
  | unsoundDescriptor
  deriving DecidableEq, Repr

/-- Why an instruction has no meaning. -/
inductive Refusal where
  /-- Raised by an arm of `exec` whose instruction has no meaning yet; no arm raises it now. SAFE: nothing runs. -/
  | notModelled (mnemonic : String)
  deriving DecidableEq, Repr

/-- What a step answers. -/
abbrev StepOutcome := Host.Outcome State Fault Refusal

/-- The machine right after reset (R44): registers 0, slots free, engine idle, no byte of pixel memory written. The
latch, which R44 leaves unspecified, is zero and center-aligned (log 4); the platform parameters are the spec's defaults
(logs 1, 2); the host has nothing to do (log 7). -/
def State.reset : State where
  pixmemBytes := Config.pixmemDefault
  bscBase := 0
  mapMode := .center
  busy := false
  err := .none
  errSticky := false
  overrun := false
  busyAccess := false
  lastCmd := 0#32
  arg0 := 0#32
  arg1 := 0#32
  arg2 := 0#32
  res0 := 0#32
  res1 := 0#32
  res2 := 0#32
  latch := ⟨0#32, 0#32, 0#32, .center⟩
  slots := Vector.replicate 16 Slot.free
  mem := []
  resetAsserted := false
  resets := 0
  hostQueue := []
  turns := []
  busLog := []

end Sys2Proof.Machine
end

