-- ==== Sys2Proof/Machine/Flags.lean ====
section
/-! DEFINITION. The STATUS fields (R33): the code of an error, the word the host reads, what a host write clears, what a
completion sets. The block has no other flags: no command sets a condition code (R43). -/

namespace Sys2Proof.Machine

/-- The 4-bit code of `STATUS.ERR` (R260). -/
def ErrorCode.code : ErrorCode → BitVec 4
  | .none => 0#4
  | .invalidParameter => 1#4
  | .allocationFailure => 2#4
  | .divByZero => 3#4
  | .overflow => 4#4
  | .illegalCommand => 5#4

/-- `STATUS` as the host reads it: reserved [31:11], BUSY_ACCESS, OVERRUN, ERR_STICKY, ERR [7:4], reserved [3:1],
BUSY (R33). -/
def statusWord (s : State) : Word :=
  0#21 ++ BitVec.ofBool s.busyAccess ++ BitVec.ofBool s.overrun ++ BitVec.ofBool s.errSticky
    ++ s.err.code ++ 0#3 ++ BitVec.ofBool s.busy

/-- A host write to `STATUS`: a 1 in bits [10:8] clears the bit, a 0 leaves it, every other bit is ignored (R33;
a simultaneous hardware set: log 10). -/
def clearStatus (s : State) (v : Word) : State :=
  { s with
    errSticky := s.errSticky && !v.getLsbD 8
    overrun := s.overrun && !v.getLsbD 9
    busyAccess := s.busyAccess && !v.getLsbD 10 }

/-- The status side of a completion (R261): `ERR` becomes the code, `ERR_STICKY` is set if the code is not 0, `BUSY`
becomes 0, at one instant. The operand latch keeps what acceptance put there: the spec leaves it any value while the
engine is idle (U7, log 4). -/
def completionFlags (s : State) (code : ErrorCode) : State :=
  { s with
    err := code
    errSticky := s.errSticky || code != .none
    busy := false }

/-- `STATUS.OVERRUN` is set by a CMD write that is dropped (R267). -/
def setOverrun (s : State) : State := { s with overrun := true }

/-- `STATUS.BUSY_ACCESS` is set by a pixel-window access that is blocked (R268). -/
def setBusyAccess (s : State) : State := { s with busyAccess := true }

end Sys2Proof.Machine
end

