-- ==== Sys2Proof/Machine/Operands.lean ====
section
/-! DEFINITION. Operand readings (R8, R11, R109, R162) and the pure functions of the datapath: Q16.16 (R150 to R163),
the coordinate mapper (R180 to R185), the pixel kernels (R200 to R205) and the frame sizes (R220 to R222).
Arithmetic is on integers, exact, and narrowed only where a rule says so (R8). -/

namespace Sys2Proof.Machine

/-! ### Integers and their 32-bit patterns (R8, R9) -/

/-- `u32(v)` (R8). -/
def u32 (v : Word) : Nat := v.toNat

/-- `s32(v)` (R8); also the number of 2^-16 units of a Q16.16 pattern (R11, R150). -/
def s32 (v : Word) : Int := v.toInt

/-- `enc32(n)`, the two's-complement pattern of `n` (R8). -/
def enc32 (n : Int) : Word := BitVec.ofInt 32 n

/-- `n` is in `INT32` (R8). -/
abbrev InInt32 (n : Int) : Prop := -2147483648 ≤ n ∧ n ≤ 2147483647

/-- `a >>> 16`, equal to `floor(a / 2^16)` (R9): integer division here rounds down, the divisor being positive. -/
def shr16 (a : Int) : Int := a / 65536

/-- `clamp(i, lo, hi)` (R9). -/
def clampInt (i lo hi : Int) : Int := if i < lo then lo else if i > hi then hi else i

/-- A size or an out_size the mapper accepts: in `[1, MAX_DIM]` (R180, R183, R184). -/
abbrev ValidSize (n : Int) : Prop := 1 ≤ n ∧ n ≤ Config.maxDim

/-! ### Q16.16 (R150 to R160) -/

/-- The fraction field `a[15:0]`, zero-extended (R160). -/
def fracBits (a : Word) : Word := (a.extractLsb' 0 16).setWidth 32

/-- `FXMUL(a, b)`: the 64-bit product, then floor of the division by 65536 (R157). -/
def fxMulUnits (a b : Word) : Int := shr16 (s32 a * s32 b)

/-- `FXDIV(a, b)`, for a divisor that is not 0: the quotient rounded toward zero (R158). -/
def fxDivUnits (a b : Word) : Int := (s32 a * 65536).tdiv (s32 b)

/-! ### binary32 (R162, R163) -/

/-- The exponent field `f[30:23]` (R162). -/
def f32Exponent (f : Word) : Nat := (f.extractLsb' 23 8).toNat

/-- The fraction field `f[22:0]` (R162). -/
def f32Fraction (f : Word) : Nat := (f.extractLsb' 0 23).toNat

/-- The sign bit `f[31]` (R162). -/
def f32Sign (f : Word) : Bool := f.getLsbD 31

/-- `F32NAN(f)` (R162). -/
abbrev F32Nan (f : Word) : Prop := f32Exponent f = 255 ∧ f32Fraction f ≠ 0

/-- `F32INF(f)` (R162). -/
abbrev F32Inf (f : Word) : Prop := f32Exponent f = 255 ∧ f32Fraction f = 0

/-- `|F32VAL(f)|` in units of 2^-149, the finest binary32 spacing: exact, a natural number (R162). -/
def f32Magnitude (f : Word) : Nat :=
  if f32Exponent f = 0 then f32Fraction f else (8388608 + f32Fraction f) * 2 ^ (f32Exponent f - 1)

/-- `F32VAL(f)` in units of 2^-149 (R162). -/
def f32Units (f : Word) : Int := if f32Sign f then -(f32Magnitude f : Int) else f32Magnitude f

/-- `floor(F32VAL(f) * 65536)` (R152): the units times 2^16 / 2^149, rounded down. -/
def f32Floor16 (f : Word) : Int := f32Units f / 2 ^ 133

/-- The 24-bit significand of a magnitude of `mag` units of 2^-16 whose top bit is `top`, rounded down, or up where
`up` is set (a negative value rounds its magnitude up: R163). -/
def f32Significand (mag top : Nat) (up : Bool) : Nat :=
  if top ≤ 23 then mag * 2 ^ (23 - top)
  else if up then (mag + (2 ^ (top - 23) - 1)) / 2 ^ (top - 23)
  else mag / 2 ^ (top - 23)

/-- `F32RDN(q)` for `q = n / 65536` (R163): `+0.0` for 0, else the binary32 pattern of the largest value not above `q`.
With the top bit of the magnitude at `top` the biased exponent is `top - 16 + 127`; the significand carries its hidden
bit, and a significand rounded up to 2^24 carries into the exponent. -/
def f32RoundDown (n : Int) : Word :=
  if n = 0 then 0#32
  else
    let top := Nat.log2 n.natAbs
    let sign := if n < 0 then 2147483648 else 0
    BitVec.ofNat 32 (sign + (top + 110) * 8388608 + f32Significand n.natAbs top (decide (n < 0)))

/-! ### The coordinate mapper (R180 to R185) -/

/-- `STEP(in, out) = floor(in * 65536 / out)`, for sizes in `[1, MAX_DIM]` (R180). -/
def stepUnits (inSize outSize : Int) : Int := inSize * 65536 / outSize

/-- The product of `CENTER` before the last subtraction: `((o * 65536 + 32768) * step) >>> 16` (R181). -/
def centerProduct (o step : Int) : Int := shr16 ((o * 65536 + 32768) * step)

/-- `CENTER(o, step)` (R181). -/
def centerCoord (o step : Int) : Int := centerProduct o step - 32768

/-- `ORIGIN(o, step)` (R182). -/
def originCoord (o step : Int) : Int := o * step

/-- `CLAMPIDX(i, n)` (R183). -/
def clampIdx (i n : Int) : Int := clampInt i 0 (n - 1)

/-- The first neighbour index of `NEIGH(src, n)` (R184). -/
def neighLo (src : Word) (n : Int) : Int := clampIdx (shr16 (s32 src)) n

/-- The second neighbour index of `NEIGH(src, n)` (R184). -/
def neighHi (src : Word) (n : Int) : Int := clampIdx (shr16 (s32 src) + 1) n

/-- `SRC(o, in, out, mode)`: the source coordinate of output coordinate `o` along one axis (R185). -/
def srcCoord (o inSize outSize : Nat) (mode : MapMode) : Int :=
  match mode with
  | .center => centerCoord o (stepUnits inSize outSize)
  | .origin => originCoord o (stepUnits inSize outSize)

/-! ### Rasters and kernels (R73, R200 to R205) -/

/-- `SIZE(h)`: width times height times channel count, in bytes (R38). -/
def slotSize (d : Slot) : Nat := d.width.toNat * d.height.toNat * d.ch.toNat

/-- The clauses of R40 about one valid slot: a supported channel count, sizes in range, all bytes inside pixel memory. -/
abbrev SoundSlot (pixmemBytes : Nat) (d : Slot) : Prop :=
  (d.ch = 1#2 ∨ d.ch = 3#2) ∧ 1 ≤ d.width.toNat ∧ d.width.toNat ≤ Config.maxDim ∧
    1 ≤ d.height.toNat ∧ d.height.toNat ≤ Config.maxDim ∧ d.base.toNat + slotSize d ≤ pixmemBytes

/-- `PADDR(h, x, y, c)`: the address of the sample of channel `c` of pixel `(x, y)` (R73, R74). -/
def paddr (d : Slot) (x y c : Nat) : Nat :=
  d.base.toNat + (y * d.width.toNat + x) * d.ch.toNat + c

/-- A kernel: from a way to read pixel memory, a source slot, a source coordinate and a channel, one 8-bit sample. -/
abbrev Kernel := (Nat → Byte) → Slot → Word → Word → Nat → Byte

/-- `NNV(h, sx, sy, c)`: the pixel at the clamped floor of the coordinate (R201). -/
def nnValue : Kernel := fun rd d sx sy c =>
  rd (paddr d (clampIdx (shr16 (s32 sx)) d.width.toNat).toNat (clampIdx (shr16 (s32 sy)) d.height.toNat).toNat c)

/-- The sum `s` of `BLV` in Q16.16, from the four neighbours and the two fractional weights in units of 2^-16, with
`wxy = (dx * dy) >>> 16` formed first (R203). -/
def bilinearSum (p00 p01 p10 p11 dx dy : Int) : Int :=
  p00 * 65536 + (p01 - p00) * dx + (p10 - p00) * dy + (p00 - p01 - p10 + p11) * shr16 (dx * dy)

/-- `BLV(h, sx, sy, c)`: the four-term blend, its integer part, clamped to [0, 255] (R203). -/
def blValue : Kernel := fun rd d sx sy c =>
  let w : Int := d.width.toNat
  let h : Int := d.height.toNat
  let pix (x y : Int) : Int := ((rd (paddr d x.toNat y.toNat c)).toNat : Int)
  let s := bilinearSum
    (pix (neighLo sx w) (neighLo sy h)) (pix (neighHi sx w) (neighLo sy h))
    (pix (neighLo sx w) (neighHi sy h)) (pix (neighHi sx w) (neighHi sy h))
    (u32 (fracBits sx)) (u32 (fracBits sy))
  BitVec.ofInt 8 (clampInt (shr16 s) 0 255)

/-- `PACK(k, v)`: one channel zero-extended, or three channels as 0 : B : G : R (R205). -/
def packPixel (k : Nat) (v : Nat → Byte) : Word :=
  if k = 1 then (v 0).setWidth 32 else 0#8 ++ v 2 ++ v 1 ++ v 0

/-! ### Frame sizes (R220 to R222) -/

/-- A positive scale as an exact ratio of naturals (R221). -/
structure Ratio where
  num : Nat
  den : Nat
  deriving DecidableEq, Repr

/-- `SCALEVAL(sk, a0, a1)`: the exact scale, or none where it is not a positive number (R220, R221). A float ratio is its
number of 2^-149 units over 2^149 (R162). -/
def scaleValue (sk : ScaleKind) (a0 a1 : Word) : Option Ratio :=
  match sk with
  | .float =>
    if F32Nan a0 ∨ F32Inf a0 then none
    else if f32Units a0 ≤ 0 then none
    else some ⟨(f32Units a0).toNat, 2 ^ 149⟩
  | .rational =>
    if s32 a0 ≤ 0 ∨ s32 a1 ≤ 0 then none
    else some ⟨(s32 a0).toNat, (s32 a1).toNat⟩

/-- `OUTDIM(n, q) = max(1, trunc(n * q))`, exact on rationals (R222). -/
def outDim (n : Nat) (q : Ratio) : Nat := max 1 (n * q.num / q.den)

end Sys2Proof.Machine
end

