-- ==== Sys2Proof/Machine/Ops.lean ====
section
/-! DEFINITION. The named operations over pixel memory, descriptor slots and result registers; the end of a command,
with and without an error; acceptance of a command; allocation of a buffer; reset. -/

namespace Sys2Proof.Machine

/-! ### Pixel memory (R70 to R72, R292) -/

/-- The canonical form of pixel memory: addresses strictly rising. An unlisted address has no value, so no listed entry
equals what it reads as (log 3). -/
abbrev Memory.wf (m : Memory) : Prop := m.Pairwise (fun p q => p.1 < q.1)

/-- The value something has written to `a` since reset, if any. -/
def Memory.read? : Memory → Nat → Option Byte
  | [], _ => none
  | (k, b) :: m, a => if k = a then some b else Memory.read? m a

/-- `MemWrite(a, 1, b)` (R72), keeping the canonical form. -/
def Memory.write : Memory → Nat → Byte → Memory
  | [], a, b => [(a, b)]
  | (k, x) :: m, a, b =>
    if a < k then (a, b) :: (k, x) :: m
    else if a = k then (a, b) :: m
    else (k, x) :: Memory.write m a b

/-- `for a in b .. b+n-1: MemWrite(a, 1, 0)` (R131, R223). -/
def Memory.zeroFill : Memory → Nat → Nat → Memory
  | m, _, 0 => m
  | m, b, n + 1 => Memory.zeroFill (Memory.write m b 0#8) (b + 1) n

/-- `MemWrite(a, n, v)`: the `n` low bytes of `v`, the lowest at `a` (R72). -/
def Memory.writeLE : Memory → Nat → Nat → Nat → Memory
  | m, _, 0, _ => m
  | m, a, n + 1, v => Memory.writeLE (Memory.write m a (BitVec.ofNat 8 v)) (a + 1) n (v / 256)

/-- The byte `PM[a]`: what was last written there since reset, else the free value of that byte (R292, log 3). -/
def byteAt (resets : Nat) (m : Memory) (a : Nat) : Byte := (m.read? a).getD (Config.unwrittenByte resets a)

/-- `PM[a]` of a state. -/
def State.byte (s : State) (a : Nat) : Byte := byteAt s.resets s.mem a

/-- `MemRead(a, n)`: the `n` bytes from `a` as a little-endian number (R71). -/
def State.readLE (s : State) : Nat → Nat → Nat
  | _, 0 => 0
  | a, n + 1 => (s.byte a).toNat + 256 * State.readLE s (a + 1) n

/-- Replaces pixel memory. -/
def setMem (s : State) (m : Memory) : State := { s with mem := m }

/-! ### Descriptor slots (R38) -/

/-- `D[h]`. -/
def State.slot (s : State) (h : Handle) : Slot := s.slots.get h

/-- `D[h] <- d`. -/
def setSlot (s : State) (h : Handle) (d : Slot) : State := { s with slots := s.slots.set h.val d h.isLt }

/-- Some valid slot shares a byte with the region of `size` bytes from `b` (R131, R223). -/
abbrev OverlapsLive (s : State) (b size : Nat) : Prop :=
  ∃ j : Handle, (s.slot j).valid = true ∧
    b < (s.slot j).base.toNat + slotSize (s.slot j) ∧ (s.slot j).base.toNat < b + size

/-- The ALLOCATION_FAILURE checks, zero fill and descriptor write that `BUF_CREATE` and the frame commands share (R131,
`ALLOC` of R223), for a positive size and a channel count of 1 or 3; none is ALLOCATION_FAILURE. `BUF_CREATE` checks the
valid slots other than its own, which is the same test: its own slot is free (R131). -/
def allocate (s : State) (h : Handle) (w ht k b : Nat) : Option State :=
  if w > Config.maxDim ∨ ht > Config.maxDim then none
  else if b + w * ht * k > s.pixmemBytes then none
  else if OverlapsLive s b (w * ht * k) then none
  else some (setSlot (setMem s (s.mem.zeroFill b (w * ht * k))) h
    ⟨true, BitVec.ofNat 2 k, BitVec.ofNat 32 w, BitVec.ofNat 32 ht, BitVec.ofNat 32 b⟩)

/-! ### The end of a command (R260 to R265) -/

/-- A command completes with code 0 and its effects become visible (R261, R262). -/
def commit (s : State) : StepOutcome := .next (completionFlags s .none)

/-- `raise Error(code)` (R10): what an error does, and all it does. It is recorded in STATUS and the engine is idle (R261,
R264); there is no trap entry, no saved state and so no return (R264, R265), and no result, slot or byte changes (R262):
every caller raises before it changes anything. -/
def raiseError (s : State) (code : ErrorCode) : StepOutcome := .next (completionFlags s code)

/-- `RES[0] <- v`, then completion (R10, R37, R262). -/
def commitRes0 (s : State) (v : Word) : StepOutcome := commit { s with res0 := v }

/-- All three results, then completion (R10, R37, R262). -/
def commitRes (s : State) (v0 v1 v2 : Word) : StepOutcome := commit { s with res0 := v0, res1 := v1, res2 := v2 }

/-- An exact result that must fit INT32: `RES[0]`, or OVERFLOW with nothing written (R151). -/
def commitChecked (s : State) (r : Int) : StepOutcome :=
  if InInt32 r then commitRes0 s (enc32 r) else raiseError s .overflow

/-! ### Issuing a command (R108) -/

/-- Acceptance of the word `w`: LASTCMD, the latch and BUSY (R36, R108). -/
def accept (s : State) (w : Word) : State :=
  { s with lastCmd := w, latch := ⟨s.arg0, s.arg1, s.arg2, s.mapMode⟩, busy := true }

/-- A host write of `w` to CMD: dropped with OVERRUN while a command runs, else accepted (R108, R267). -/
def issue (s : State) (w : Word) : State := if s.busy then setOverrun s else accept s w

/-! ### Reset (R290 to R292) -/

/-- A reset, with the reset line left at `line`: every register and slot at its reset value, the latch at the one log 4
gives it, a running command abandoned, every byte of pixel memory unspecified anew (log 3). The platform parameters and the outside world stay. -/
def applyReset (s : State) (line : Bool) : State :=
  { State.reset with
    pixmemBytes := s.pixmemBytes
    bscBase := s.bscBase
    resetAsserted := line
    resets := s.resets + 1
    hostQueue := s.hostQueue
    turns := s.turns
    busLog := s.busLog }

/-- The host gets a response on its bus (R76, R77, R80). -/
def respond (s : State) (r : BusResponse) : State := { s with busLog := r :: s.busLog }

end Sys2Proof.Machine
end

