-- ==== Sys2Proof/Machine/Bus.lean ====
section
/-! DEFINITION. The host's side of the block (20_memory.md): the register map, the pixel window, what each access does
and answers, and the reset line. -/

namespace Sys2Proof.Machine

/-- The registers of the map (R75). -/
inductive Reg where
  | id | ctrl | status | cmd
  | arg0 | arg1 | arg2
  | res0 | res1 | res2
  | bufInfo (h : Handle) | bufWidth (h : Handle) | bufHeight (h : Handle) | bufBase (h : Handle)
  deriving DecidableEq, Repr

/-- The offset of the pixel window (R75). -/
def windowOffset : Nat := 0x01000000

/-- The size of the block's bus window, 32 MiB (R75). -/
def busWindowBytes : Nat := 0x02000000

/-- The descriptor register at byte `r` of the file at 0x100: slot `r / 16`, register `r % 16` (R39, R75). -/
def descriptorReg (r : Nat) : Option Reg :=
  let h : Handle := Fin.ofNat 16 (r / 16)
  match r % 16 with
  | 0 => some (.bufInfo h)
  | 4 => some (.bufWidth h)
  | 8 => some (.bufHeight h)
  | 12 => some (.bufBase h)
  | _ => none

/-- The register at an offset, none where the map has none (R75): every mapped offset is a multiple of 4. -/
def regAt (off : Nat) : Option Reg :=
  match off with
  | 0x000 => some .id
  | 0x004 => some .ctrl
  | 0x008 => some .status
  | 0x00C => some .cmd
  | 0x010 => some .arg0
  | 0x014 => some .arg1
  | 0x018 => some .arg2
  | 0x020 => some .res0
  | 0x024 => some .res1
  | 0x028 => some .res2
  | _ => if 0x100 ≤ off ∧ off < 0x200 then descriptorReg (off - 0x100) else none

/-- `CTRL` as the host reads it (R32). -/
def ctrlWord (s : State) : Word :=
  match s.mapMode with
  | .center => 0#32
  | .origin => 1#32

/-- `BUFh_INFO`: VALID in bit 0, CH in bits [2:1] (R39). -/
def infoWord (d : Slot) : Word := 0#29 ++ d.ch ++ BitVec.ofBool d.valid

/-- What a register reads as (R31 to R37, R39). `ID` is the constant "BSC", version 1. -/
def readReg (s : State) : Reg → Word
  | .id => 0x42534301#32
  | .ctrl => ctrlWord s
  | .status => statusWord s
  | .cmd => s.lastCmd
  | .arg0 => s.arg0
  | .arg1 => s.arg1
  | .arg2 => s.arg2
  | .res0 => s.res0
  | .res1 => s.res1
  | .res2 => s.res2
  | .bufInfo h => infoWord (s.slot h)
  | .bufWidth h => (s.slot h).width
  | .bufHeight h => (s.slot h).height
  | .bufBase h => (s.slot h).base

/-- What a write to a register does: CTRL keeps bit 0 (R32), STATUS is W1C (R33), CMD issues (R34, R108), ARGi hold the
value (R35), and a read-only register ignores it (R76). -/
def writeReg (s : State) (r : Reg) (v : Word) : State :=
  match r with
  | .ctrl => { s with mapMode := if v.getLsbD 0 then .origin else .center }
  | .status => clearStatus s v
  | .cmd => issue s v
  | .arg0 => { s with arg0 := v }
  | .arg1 => { s with arg1 := v }
  | .arg2 => { s with arg2 := v }
  | .id | .res0 | .res1 | .res2 => s
  | .bufInfo _ | .bufWidth _ | .bufHeight _ | .bufBase _ => s

/-- Where a bus address falls. -/
inductive Place where
  /-- not in the block's window -/
  | outside
  /-- below the pixel window, at this offset (R76) -/
  | register (off : Nat)
  /-- in the pixel window, at this byte of pixel memory (R77) -/
  | window (a : Nat)
  /-- past the last byte of pixel memory (R75) -/
  | unmapped
  deriving DecidableEq, Repr

/-- The place of a bus address, by BSC_BASE and PIXMEM_BYTES (R75). -/
def locate (s : State) (addr : Nat) : Place :=
  if addr < s.bscBase ∨ s.bscBase + busWindowBytes ≤ addr then .outside
  else if addr - s.bscBase < windowOffset then .register (addr - s.bscBase)
  else if addr - s.bscBase - windowOffset < s.pixmemBytes then .window (addr - s.bscBase - windowOffset)
  else .unmapped

/-- A window access the block accepts: 1, 2 or 4 bytes, naturally aligned, inside pixel memory (R77, log 12). -/
abbrev WindowAccess (s : State) (a width : Nat) : Prop :=
  (width = 1 ∨ width = 2 ∨ width = 4) ∧ a % width = 0 ∧ a + width ≤ s.pixmemBytes

/-- A host read (R75 to R77, R80): the new state and the response. A read while BUSY = 1 in the window is blocked,
whatever its width and alignment (R77, R80, log 11). -/
def hostRead (s : State) (addr width : Nat) : State × BusResponse :=
  match locate s addr with
  | .outside => (s, .notSelected)
  | .unmapped => (s, .busError)
  | .register off =>
    match regAt off with
    | none => (s, .busError)
    | some r => if width = 4 then (s, .data (readReg s r)) else (s, .busError)
  | .window a =>
    if s.busy then (setBusyAccess s, .data 0#32)
    else if WindowAccess s a width then (s, .data (BitVec.ofNat 32 (s.readLE a width)))
    else (s, .busError)

/-- A host write (R75 to R77, R80): the new state and the response. -/
def hostWrite (s : State) (addr width : Nat) (v : Word) : State × BusResponse :=
  match locate s addr with
  | .outside => (s, .notSelected)
  | .unmapped => (s, .busError)
  | .register off =>
    match regAt off with
    | none => (s, .busError)
    | some r => if width = 4 then (writeReg s r v, .done) else (s, .busError)
  | .window a =>
    if s.busy then (setBusyAccess s, .done)
    else if WindowAccess s a width then (setMem s (s.mem.writeLE a width v.toNat), .done)
    else (s, .busError)

/-- One input from outside. While reset is asserted an access is not accepted: nothing changes and the host has no
response (R290, log 14). Either edge of the reset line leaves every register at its reset value (R290, log 15). -/
def perform (s : State) (i : HostInput) : State :=
  match i with
  | .resetAssert => applyReset s true
  | .resetRelease => applyReset s false
  | .read addr width =>
    if s.resetAsserted then respond s .noResponse
    else respond (hostRead s addr width).1 (hostRead s addr width).2
  | .write addr width v =>
    if s.resetAsserted then respond s .noResponse
    else respond (hostWrite s addr width v).1 (hostWrite s addr width v).2

end Sys2Proof.Machine
end

