-- ==== Sys2Proof/Machine/Control.lean ====
section
/-! DEFINITION. The control command (45_control.md). -/

namespace Sys2Proof.Machine

/-- `NOP`: nothing but completion (R250). -/
def execNop (s : State) : StepOutcome := commit s

end Sys2Proof.Machine
end

