-- ==== Sys2Proof/Machine/FixedPoint.lean ====
section
/-! DEFINITION. The Q16.16 ALU commands (41_fixed_point.md). Each reads the latch and writes RES0 only. -/

namespace Sys2Proof.Machine

/-- `FX_TOFIX` (R152). -/
def execFxToFix (s : State) : StepOutcome :=
  if F32Nan s.latch.arg0 then raiseError s .invalidParameter
  else if F32Inf s.latch.arg0 then raiseError s .overflow
  else commitChecked s (f32Floor16 s.latch.arg0)

/-- `FX_TOFLT` (R153). -/
def execFxToFlt (s : State) : StepOutcome := commitRes0 s (f32RoundDown (s32 s.latch.arg0))

/-- `FX_FROMINT` (R154). -/
def execFxFromInt (s : State) : StepOutcome := commitChecked s (s32 s.latch.arg0 * 65536)

/-- `FX_ADD` (R155). -/
def execFxAdd (s : State) : StepOutcome := commitChecked s (s32 s.latch.arg0 + s32 s.latch.arg1)

/-- `FX_SUB` (R156). -/
def execFxSub (s : State) : StepOutcome := commitChecked s (s32 s.latch.arg0 - s32 s.latch.arg1)

/-- `FX_MUL` (R157). -/
def execFxMul (s : State) : StepOutcome := commitChecked s (fxMulUnits s.latch.arg0 s.latch.arg1)

/-- `FX_DIV` (R158): a zero divisor is found before the quotient. -/
def execFxDiv (s : State) : StepOutcome :=
  if s32 s.latch.arg1 = 0 then raiseError s .divByZero
  else commitChecked s (fxDivUnits s.latch.arg0 s.latch.arg1)

/-- `FX_INT` (R159). -/
def execFxInt (s : State) : StepOutcome := commitRes0 s (enc32 (shr16 (s32 s.latch.arg0)))

/-- `FX_FRAC` (R160). -/
def execFxFrac (s : State) : StepOutcome := commitRes0 s (fracBits s.latch.arg0)

end Sys2Proof.Machine
end

