-- ==== Sys2Proof/Machine/FrameScalers.lean ====
section
/-! DEFINITION. The frame scaler commands (44_frame_scalers.md). -/

namespace Sys2Proof.Machine

/-- The samples `(x, y, c)` of a raster in row-major order, channels of a pixel together (R224). -/
def rowMajor (w h k : Nat) : List (Nat × Nat × Nat) :=
  (List.range h).flatMap fun y => (List.range w).flatMap fun x => (List.range k).map fun c => (x, y, c)

/-- One turn of the frame loop: the sample `(x, y, c)` of the destination becomes the kernel's value at the mapped source
coordinate (R224). -/
def framePixel (K : Kernel) (resets : Nat) (src dst : Slot) (mode : MapMode) (m : Memory) (p : Nat × Nat × Nat) : Memory :=
  m.write (paddr dst p.1 p.2.1 p.2.2)
    (K (byteAt resets m) src
      (enc32 (srcCoord p.1 src.width.toNat dst.width.toNat mode))
      (enc32 (srcCoord p.2.1 src.height.toNat dst.height.toNat mode)) p.2.2)

/-- The frame loop over the given samples, one byte at a time, each turn reading memory as the turns before it left
it (R224). -/
def frameLoop (K : Kernel) (resets : Nat) (src dst : Slot) (mode : MapMode) (m : Memory)
    (order : List (Nat × Nat × Nat)) : Memory :=
  order.foldl (framePixel K resets src dst mode) m

/-- `FRAME(hs, hd, K)` (R224), with the latched MAP_MODE (R185). -/
def frame (K : Kernel) (s : State) (hs hd : Handle) : State :=
  setMem s (frameLoop K s.resets (s.slot hs) (s.slot hd) s.latch.mapMode s.mem
    (rowMajor (s.slot hd).width.toNat (s.slot hd).height.toNat (s.slot hd).ch.toNat))

/-- A whole-frame resize of `hs` into a new buffer `hd` with kernel `K` (R225, R226): checks in the listed order,
allocation, the frame loop, results. -/
def scaleWith (K : Kernel) (hs hd : Handle) (sk : ScaleKind) (s : State) : StepOutcome :=
  if (s.slot hs).valid = false then raiseError s .invalidParameter
  else if hd = hs ∨ (s.slot hd).valid = true then raiseError s .invalidParameter
  else
    match scaleValue sk s.latch.arg0 s.latch.arg1 with
    | none => raiseError s .invalidParameter
    | some q =>
      if ¬SoundSlot s.pixmemBytes (s.slot hs) then .fault .unsoundDescriptor
      else
        let wo := outDim (s.slot hs).width.toNat q
        let ho := outDim (s.slot hs).height.toNat q
        let k := (s.slot hs).ch.toNat
        match allocate s hd wo ho k (u32 s.latch.arg2) with
        | none => raiseError s .allocationFailure
        | some t =>
          commitRes (frame K t hs hd) (enc32 (wo : Nat)) (enc32 (ho : Nat)) (enc32 (wo * ho * k : Nat))

/-- `NN_SCALE ha, hb, sk` (R225). -/
def execNnScale (ha hb : Handle) (sk : ScaleKind) (s : State) : StepOutcome := scaleWith nnValue ha hb sk s

/-- `BL_SCALE ha, hb, sk` (R226). -/
def execBlScale (ha hb : Handle) (sk : ScaleKind) (s : State) : StepOutcome := scaleWith blValue ha hb sk s

end Sys2Proof.Machine
end

