-- ==== Sys2Proof/Machine/Kernels.lean ====
section
/-! DEFINITION. The interpolation kernel commands (43_kernels.md). -/

namespace Sys2Proof.Machine

/-- One sample of slot `h` at the latched coordinates, channel by channel, packed (R202, R204). -/
def sampleWith (K : Kernel) (h : Handle) (s : State) : StepOutcome :=
  if (s.slot h).valid = false then raiseError s .invalidParameter
  else if ¬SoundSlot s.pixmemBytes (s.slot h) then .fault .unsoundDescriptor
  else commitRes0 s (packPixel (s.slot h).ch.toNat (K s.byte (s.slot h) s.latch.arg0 s.latch.arg1))

/-- `NN_SAMPLE ha` (R202). -/
def execNnSample (ha : Handle) (s : State) : StepOutcome := sampleWith nnValue ha s

/-- `BL_SAMPLE ha` (R204). -/
def execBlSample (ha : Handle) (s : State) : StepOutcome := sampleWith blValue ha s

end Sys2Proof.Machine
end

