-- ==== Sys2Proof/Machine/Mapper.lean ====
section
/-! DEFINITION. The coordinate mapper commands (42_coordinate_mapper.md). -/

namespace Sys2Proof.Machine

/-- `MAP_STEP` (R180). -/
def execMapStep (s : State) : StepOutcome :=
  if ¬(ValidSize (s32 s.latch.arg0) ∧ ValidSize (s32 s.latch.arg1)) then raiseError s .invalidParameter
  else commitRes0 s (enc32 (stepUnits (s32 s.latch.arg0) (s32 s.latch.arg1)))

/-- The operand check of `MAP_CENTER` and `MAP_ORIGIN`: an out_coord in `[0, MAX_DIM - 1]`, a positive step (R181, R182). -/
abbrev ValidCoordStep (o step : Int) : Prop := 0 ≤ o ∧ o ≤ Config.maxDim - 1 ∧ 1 ≤ step

/-- `MAP_CENTER` (R181): the range check is on the product, before 0.5 is taken off. -/
def execMapCenter (s : State) : StepOutcome :=
  if ¬ValidCoordStep (s32 s.latch.arg0) (s32 s.latch.arg1) then raiseError s .invalidParameter
  else if ¬InInt32 (centerProduct (s32 s.latch.arg0) (s32 s.latch.arg1)) then raiseError s .overflow
  else commitRes0 s (enc32 (centerCoord (s32 s.latch.arg0) (s32 s.latch.arg1)))

/-- `MAP_ORIGIN` (R182). -/
def execMapOrigin (s : State) : StepOutcome :=
  if ¬ValidCoordStep (s32 s.latch.arg0) (s32 s.latch.arg1) then raiseError s .invalidParameter
  else commitChecked s (originCoord (s32 s.latch.arg0) (s32 s.latch.arg1))

/-- `CLAMP` (R183). -/
def execClamp (s : State) : StepOutcome :=
  if ¬ValidSize (s32 s.latch.arg1) then raiseError s .invalidParameter
  else commitRes0 s (enc32 (clampIdx (s32 s.latch.arg0) (s32 s.latch.arg1)))

/-- `MAP_NEIGH` (R184): RES0 and RES1 the clamped neighbours, RES2 the fraction. -/
def execMapNeigh (s : State) : StepOutcome :=
  if ¬ValidSize (s32 s.latch.arg1) then raiseError s .invalidParameter
  else commitRes s (enc32 (neighLo s.latch.arg0 (s32 s.latch.arg1))) (enc32 (neighHi s.latch.arg0 (s32 s.latch.arg1)))
    (fracBits s.latch.arg0)

end Sys2Proof.Machine
end

