-- ==== Sys2Proof/Machine/PixelBuffer.lean ====
section
/-! DEFINITION. The pixel buffer commands (40_pixel_buffer.md). -/

namespace Sys2Proof.Machine

/-- `BUF_CREATE ha, ch` (R131): ARG0 width and ARG1 height as s32, ARG2 base as u32. -/
def execBufCreate (ha : Handle) (ch : Nat) (s : State) : StepOutcome :=
  if (s.slot ha).valid = true then raiseError s .invalidParameter
  else if s32 s.latch.arg0 ≤ 0 ∨ s32 s.latch.arg1 ≤ 0 then raiseError s .invalidParameter
  else if ¬(ch = 1 ∨ ch = 3) then raiseError s .invalidParameter
  else
    let w := (s32 s.latch.arg0).toNat
    let ht := (s32 s.latch.arg1).toNat
    match allocate s ha w ht ch (u32 s.latch.arg2) with
    | none => raiseError s .allocationFailure
    | some t => commitRes0 t (enc32 (w * ht * ch : Nat))

/-- `BUF_RELEASE ha` (R132): a live slot becomes free, pixel memory stays; on a free slot nothing. -/
def execBufRelease (ha : Handle) (s : State) : StepOutcome :=
  if (s.slot ha).valid = true then commit (setSlot s ha Slot.free) else commit s

end Sys2Proof.Machine
end

