-- ==== Sys2Proof/Machine/Dispatch.lean ====
section
/-! DEFINITION. What the engine does with a decoded command: one arm per command of R106. -/

namespace Sys2Proof.Machine

def exec (i : Instr) (s : State) : Host.Outcome State Fault Refusal :=
  match i with
  | .nop => Sys2Proof.Machine.execNop s
  | .bufCreate ha ch => Sys2Proof.Machine.execBufCreate ha ch s
  | .bufRelease ha => Sys2Proof.Machine.execBufRelease ha s
  | .fxToFix => Sys2Proof.Machine.execFxToFix s
  | .fxToFlt => Sys2Proof.Machine.execFxToFlt s
  | .fxFromInt => Sys2Proof.Machine.execFxFromInt s
  | .fxAdd => Sys2Proof.Machine.execFxAdd s
  | .fxSub => Sys2Proof.Machine.execFxSub s
  | .fxMul => Sys2Proof.Machine.execFxMul s
  | .fxDiv => Sys2Proof.Machine.execFxDiv s
  | .fxInt => Sys2Proof.Machine.execFxInt s
  | .fxFrac => Sys2Proof.Machine.execFxFrac s
  | .mapStep => Sys2Proof.Machine.execMapStep s
  | .mapCenter => Sys2Proof.Machine.execMapCenter s
  | .mapOrigin => Sys2Proof.Machine.execMapOrigin s
  | .clamp => Sys2Proof.Machine.execClamp s
  | .mapNeigh => Sys2Proof.Machine.execMapNeigh s
  | .nnSample ha => Sys2Proof.Machine.execNnSample ha s
  | .blSample ha => Sys2Proof.Machine.execBlSample ha s
  | .nnScale ha hb sk => Sys2Proof.Machine.execNnScale ha hb sk s
  | .blScale ha hb sk => Sys2Proof.Machine.execBlScale ha hb sk s

end Sys2Proof.Machine
end

