-- ==== Sys2Proof/Machine/Engine.lean ====
section
/-! DEFINITION. The parts of a step: the engine's turn, the host's turn, and whose turn it is (R84, R108, R298). -/

namespace Sys2Proof.Machine

/-- A turn is taken: the schedule moves on. -/
def popTurn (s : State) : State := { s with turns := s.turns.tail }

/-- The engine's turn while a command runs: it decodes the running word and executes it to completion, or completes with
ILLEGAL_COMMAND (R107, R108). -/
def engineTurn (s : State) : StepOutcome :=
  match decode s.lastCmd with
  | .error _ => raiseError s .illegalCommand
  | .ok i => exec i s

/-- The host's turn: its oldest access, or nothing where it has none left (R84, R299). -/
def hostTurn (s : State) : StepOutcome :=
  match s.hostQueue with
  | [] => .next s
  | i :: rest => .next (perform { s with hostQueue := rest } i)

/-- The running command completes now: the schedule says the engine, or says nothing, or says the host while the host
has nothing to do (R298, log 5). -/
def engineMoves (s : State) : Bool :=
  match s.turns with
  | .host :: _ => s.hostQueue.isEmpty
  | _ => true

end Sys2Proof.Machine
end

