-- ==== Sys2Proof/Machine/Step.lean ====
section
/-! DEFINITION. One step of the machine. -/

namespace Sys2Proof.Machine

/-- One step: while a command runs, a turn of the engine or of the host, as the schedule says; else the host's turn, or
waiting (R30, R42, R84, R298, R299). While reset is asserted no command runs (R290). No cycle is
counted (log 21). -/
def step (s : State) : StepOutcome :=
  if s.busy && !s.resetAsserted then
    if engineMoves s then engineTurn (popTurn s) else hostTurn (popTurn s)
  else hostTurn s

/-- The state with the word `w` accepted (R108) and the engine to move: the machine fetches no program, so the command the
next step runs is the accepted one (R30, R87, log 9). -/
def State.withFetchWord (s : State) (nbits w : Nat) : State :=
  { accept s (BitVec.ofNat 32 (w % 2 ^ nbits)) with
    resetAsserted := false
    turns := .engine :: s.turns }

end Sys2Proof.Machine
end

