-- ==== Sys2Proof/Safety.lean ====
section
/-! DEFINITION. What a good state is, and the terms the statements use: the spec's formulas on exact rationals, written
without the machine's own functions. -/

namespace Sys2Proof.Machine

/-- The invariant of the machine: the parameters in their range (R6), pixel memory in canonical form and inside its
bounds (R70), the descriptor invariant (R38, R40), every byte of a live buffer written since reset (R292), and no command
running while reset is asserted (R290). -/
structure State.Inv (s : State) : Prop where
  pixmem_pos : 1 ≤ s.pixmemBytes
  pixmem_le : s.pixmemBytes ≤ Config.pixmemMax
  mem_wf : s.mem.wf
  mem_inside : ∀ p ∈ s.mem, p.1 < s.pixmemBytes
  slot_sound : ∀ h, (s.slot h).valid = true → SoundSlot s.pixmemBytes (s.slot h)
  slot_free : ∀ h, (s.slot h).valid = false → s.slot h = Slot.free
  slots_disjoint : ∀ h j, h ≠ j → (s.slot h).valid = true → (s.slot j).valid = true →
    (s.slot h).base.toNat + slotSize (s.slot h) ≤ (s.slot j).base.toNat ∨
      (s.slot j).base.toNat + slotSize (s.slot j) ≤ (s.slot h).base.toNat
  slots_written : ∀ h, (s.slot h).valid = true → ∀ n, n < slotSize (s.slot h) →
    (s.mem.read? ((s.slot h).base.toNat + n)).isSome
  reset_idle : s.resetAsserted = true → s.busy = false

/-- A host program's run on the block has ended: nothing left to do and no command running (R299). -/
def State.Ended (s : State) : Prop := s.hostQueue = [] ∧ s.busy = false

end Sys2Proof.Machine

namespace Sys2Proof.Spec

open Sys2Proof.Machine

/-- `F32VAL(f)`, the exact rational value of a binary32 pattern that is no NaN and no infinity (R162). -/
def f32Value (f : Word) : ℚ :=
  (if f.getLsbD 31 then -1 else 1) *
    (if f32Exponent f = 0 then (f32Fraction f : ℚ) / 2 ^ 149
     else ((2 ^ 23 + f32Fraction f : ℕ) : ℚ) * 2 ^ f32Exponent f / 2 ^ 150)

/-- `STEP(in, out)` (R180). -/
def step (i o : ℕ) : ℤ := ⌊(i * 65536 : ℚ) / o⌋

/-- `SRC(o, in, out, mode)` (R181, R182, R185). -/
def src (o i n : ℕ) : MapMode → ℤ
  | .center => ⌊((o * 65536 + 32768 : ℕ) : ℚ) * step i n / 65536⌋ - 32768
  | .origin => o * step i n

/-- The index of the pixel at a coordinate of `v` units of 2^-16, moved `d` pixels on, kept in `[0, n-1]` (R183, R184). -/
def index (v : ℤ) (d : ℤ) (n : ℕ) : ℕ := (max 0 (min (⌊(v : ℚ) / 65536⌋ + d) (n - 1))).toNat

/-- The sample at `(x, y, c)` of the raster in slot `d`, memory read through `rd` (R73, R200). -/
def pix (rd : ℕ → Byte) (d : Slot) (x y c : ℕ) : ℕ :=
  (rd (d.base.toNat + (y * d.width.toNat + x) * d.ch.toNat + c)).toNat

/-- `NNV` at a coordinate in units of 2^-16 (R201). -/
def nn (rd : ℕ → Byte) (d : Slot) (sx sy : ℤ) (c : ℕ) : ℕ :=
  pix rd d (index sx 0 d.width.toNat) (index sy 0 d.height.toNat) c

/-- The blend of four neighbours by weights in units of 2^-16 (R203). -/
def blend (p00 p01 p10 p11 : ℕ) (dx dy : ℤ) : ℤ :=
  p00 * 65536 + ((p01 : ℤ) - p00) * dx + ((p10 : ℤ) - p00) * dy +
    ((p00 : ℤ) - p01 - p10 + p11) * ⌊(dx * dy : ℚ) / 65536⌋

/-- `BLV` at a coordinate in units of 2^-16 (R203). -/
def bl (rd : ℕ → Byte) (d : Slot) (sx sy : ℤ) (c : ℕ) : ℕ :=
  (max 0 (min ⌊(blend
    (pix rd d (index sx 0 d.width.toNat) (index sy 0 d.height.toNat) c)
    (pix rd d (index sx 1 d.width.toNat) (index sy 0 d.height.toNat) c)
    (pix rd d (index sx 0 d.width.toNat) (index sy 1 d.height.toNat) c)
    (pix rd d (index sx 1 d.width.toNat) (index sy 1 d.height.toNat) c)
    (sx % 65536) (sy % 65536) : ℚ) / 65536⌋ 255)).toNat

/-- `PACK(k, v)` (R205). -/
def pack (k : ℕ) (v : ℕ → ℕ) : Word :=
  BitVec.ofNat 32 (if k = 1 then v 0 else v 0 + 256 * v 1 + 65536 * v 2)

/-- The ScaleSpec of kind `sk` in `a0`, `a1` is valid and denotes `q` (R220, R221). -/
def IsScale (sk : ScaleKind) (a0 a1 : Word) (q : ℚ) : Prop :=
  match sk with
  | .float => ¬F32Nan a0 ∧ ¬F32Inf a0 ∧ q = f32Value a0 ∧ 0 < q
  | .rational => 0 < a0.toInt ∧ 0 < a1.toInt ∧ q = (a0.toInt : ℚ) / a1.toInt

/-- `OUTDIM(n, q)` (R222). -/
def outDim (n : ℕ) (q : ℚ) : ℕ := max 1 ⌊n * q⌋.toNat

/-- No live buffer shares a byte with the `size` bytes from `b` (R131, R223). -/
def NoOverlap (s : State) (b size : ℕ) : Prop :=
  ∀ j, (s.slot j).valid = true →
    (s.slot j).base.toNat + slotSize (s.slot j) ≤ b ∨ b + size ≤ (s.slot j).base.toNat

/-- The state after a command that ended with an error: STATUS alone is changed (R261, R262). That the idle latch keeps its
value too is the model's choice (U7, log 4). -/
def failed (s : State) (code : ErrorCode) : State :=
  { s with err := code, errSticky := true, busy := false }

/-- The same outcome with `f` applied to the next state, if there is one. -/
def mapNext (f : State → State) : StepOutcome → StepOutcome
  | .next t => .next (f t)
  | .fault r => .fault r
  | .refused r => .refused r

end Sys2Proof.Spec
end

