-- ==== Sys2Proof/Certificates/Slice0/Obligations.lean ====
section
/-! DEFINITION. The statements for the provers: what the rules of spec/ say the block does. Each docstring names the rule
it formalises; a statement that rests on a choice of the model names the log entry. Next states are written as the state
before with the named fields changed; that the operand latch is among the fields a completion keeps is the model's choice
throughout, because the spec leaves its idle value open and says that nobody can observe it (U7, log 4). -/

open Sys2Proof Sys2Proof.Machine

/-! ### Command words (30_encoding.md) -/

/-- R101 to R106, R111: decoding the word of a well-formed command gives the command back. -/
def Obligations.DecodeInvertsEncode : Prop :=
  ∀ i : Instr, i.WellFormed = true → decode (encode i) = .ok i

/-- R101 to R107: a word that decodes is the word of the command it decodes to, which is well formed: no legal word has a
second spelling and no bit of it is dropped. -/
def Obligations.EncodeInvertsDecode : Prop :=
  ∀ (w : Word) (i : Instr), decode w = .ok i → i.WellFormed = true ∧ encode i = w

/-- R106, R107, R108: with the 21 match words of R106 and the match masks of R102 to R105 written out, a word is legal
exactly where it matches a row under its mask, and it matches at most one. -/
def Obligations.LegalWordsAreThoseThatMatchOneRow : Prop :=
  let rows : List (Word × Word) :=
    [(0xFFFFFFFF#32, 0x00#32), (0xFFFCF0FF#32, 0x01#32), (0xFFFFF0FF#32, 0x02#32),
     (0xFFFFFFFF#32, 0x10#32), (0xFFFFFFFF#32, 0x11#32), (0xFFFFFFFF#32, 0x12#32), (0xFFFFFFFF#32, 0x13#32),
     (0xFFFFFFFF#32, 0x14#32), (0xFFFFFFFF#32, 0x15#32), (0xFFFFFFFF#32, 0x16#32), (0xFFFFFFFF#32, 0x17#32),
     (0xFFFFFFFF#32, 0x18#32), (0xFFFFFFFF#32, 0x20#32), (0xFFFFFFFF#32, 0x21#32), (0xFFFFFFFF#32, 0x22#32),
     (0xFFFFFFFF#32, 0x23#32), (0xFFFFFFFF#32, 0x24#32), (0xFFFFF0FF#32, 0x30#32), (0xFFFFF0FF#32, 0x31#32),
     (0xFFFE00FF#32, 0x40#32), (0xFFFE00FF#32, 0x41#32)]
  ∀ w : Word,
    ((∃ i, decode w = .ok i) ↔ ∃ r ∈ rows, w &&& r.1 = r.2) ∧
      rows.countP (fun r => w &&& r.1 == r.2) ≤ 1

/-- R106, R111: words written out bit by bit from the spec's encodings decode to the commands they stand for. -/
def Obligations.WordsWrittenFromTheEncodingDecode : Prop :=
  decode 0b00000000000000000000000000000000#32 = .ok .nop ∧
    decode 0b00000000000000110000000100000001#32 = .ok (.bufCreate 1 3) ∧
    decode 0b00000000000000000000111100000010#32 = .ok (.bufRelease 15) ∧
    decode 0b00000000000000000000000000010101#32 = .ok .fxMul ∧
    decode 0b00000000000000000000000000100100#32 = .ok .mapNeigh ∧
    decode 0b00000000000000000000010100110001#32 = .ok (.blSample 5) ∧
    decode 0b00000000000000010101001001000000#32 = .ok (.nnScale 2 5 .rational) ∧
    decode 0b00000000000000000001000001000001#32 = .ok (.blScale 0 1 .float)

/-! ### Steps, completion, errors (10_state.md, 60_exceptions.md, 70_reset_and_hazards.md) -/

/-- R42, R108: while a command runs, a step at the engine's turn executes the command the running word decodes to, and
takes that turn off the schedule (log 5). -/
def Obligations.EngineTurnExecutesTheDecodedCommand : Prop :=
  ∀ (s : State) (i : Instr), s.busy = true → s.resetAsserted = false →
    (s.turns = [] ∨ s.turns.head? = some .engine ∨ s.hostQueue = []) → decode s.lastCmd = .ok i →
      step s = exec i { s with turns := s.turns.tail }

/-- R84, R299: at the host's turn (no command runs, or the schedule gives the host a turn while one runs: log 5) a step
performs the oldest host access and takes it off the queue; where the run has ended (no access left, `BUSY = 0`) the block
waits, its state as it is (log 8). -/
def Obligations.HostTurnPerformsTheOldestAccess : Prop :=
  ∀ s : State,
    (∀ a rest, s.hostQueue = a :: rest →
      (s.busy = false → step s = .next (perform { s with hostQueue := rest } a)) ∧
        (s.busy = true → s.resetAsserted = false → s.turns.head? = some .host →
          step s = .next (perform { s with hostQueue := rest, turns := s.turns.tail } a))) ∧
    (s.Ended → step s = .next s)

/-- R107, R108, R260, R261: a running word that does not decode completes with code 5 and no other effect: the engine's
turn does so, and so does a step at that turn, which also takes the turn off the schedule (log 5). -/
def Obligations.IllegalCommandOnlyReportsItsCode : Prop :=
  ∀ s : State, (∀ i, decode s.lastCmd ≠ .ok i) →
    engineTurn s = .next { s with err := .illegalCommand, errSticky := true, busy := false } ∧
    (s.busy = true → s.resetAsserted = false →
      (s.turns = [] ∨ s.turns.head? = some .engine ∨ s.hostQueue = []) →
        step s = .next { s with
          turns := s.turns.tail, err := .illegalCommand, errSticky := true, busy := false }) ∧
    ErrorCode.illegalCommand.code = 5#4

/-- R261: a completion sets ERR, sets ERR_STICKY exactly on a code that is not 0, and clears BUSY. -/
def Obligations.CompletionSetsStatus : Prop :=
  ∀ (i : Instr) (s t : State), exec i s = .next t →
    t.busy = false ∧ (t.err = .none → t.errSticky = s.errSticky) ∧ (t.err ≠ .none → t.errSticky = true)

/-- R262: a command that completes with a non-zero code has no effect besides STATUS (that the latch too stays as it was is
the model's choice: log 4). -/
def Obligations.FailedCommandChangesOnlyStatus : Prop :=
  ∀ (i : Instr) (s t : State), exec i s = .next t → t.err ≠ .none → t = Spec.failed s t.err

/-- R260: each command raises only the codes the table of R260 lists it under. -/
def Obligations.CommandsRaiseOnlyTheirListedCodes : Prop :=
  ∀ (i : Instr) (s t : State), exec i s = .next t →
    (t.err = .invalidParameter → i ≠ .nop ∧ (∀ h, i ≠ .bufRelease h) ∧
      i ≠ .fxToFlt ∧ i ≠ .fxFromInt ∧ i ≠ .fxAdd ∧ i ≠ .fxSub ∧ i ≠ .fxMul ∧ i ≠ .fxDiv ∧ i ≠ .fxInt ∧ i ≠ .fxFrac) ∧
    (t.err = .allocationFailure → (∃ h k, i = .bufCreate h k) ∨ (∃ a b k, i = .nnScale a b k) ∨ ∃ a b k, i = .blScale a b k) ∧
    (t.err = .divByZero → i = .fxDiv) ∧
    (t.err = .overflow → i = .fxToFix ∨ i = .fxFromInt ∨ i = .fxAdd ∨ i = .fxSub ∨ i = .fxMul ∨ i = .fxDiv ∨
      i = .mapCenter ∨ i = .mapOrigin) ∧
    t.err ≠ .illegalCommand

/-- R35, R43, R262: what no command changes: operand and control registers, LASTCMD, the latch, the OVERRUN and
BUSY_ACCESS bits, the parameters and the outside world; only the buffer and frame commands change a slot, and only
BUF_CREATE and the frame commands change a byte of pixel memory. That the latch keeps its value once the engine is idle is
the model's choice (U7, log 4). -/
def Obligations.CommandsLeaveTheRestUnchanged : Prop :=
  ∀ (i : Instr) (s t : State), exec i s = .next t →
    t = { s with
          busy := t.busy, err := t.err, errSticky := t.errSticky
          res0 := t.res0, res1 := t.res1, res2 := t.res2, slots := t.slots, mem := t.mem } ∧
    ((∀ h k, i ≠ .bufCreate h k) → (∀ a b k, i ≠ .nnScale a b k) → (∀ a b k, i ≠ .blScale a b k) →
      (∀ a, t.byte a = s.byte a) ∧ ((∀ h, i ≠ .bufRelease h) → ∀ h, t.slot h = s.slot h))

/-- R261: every accepted command completes: under the invariant every command answers a next state, whatever its
operands. -/
def Obligations.EveryCommandCompletes : Prop :=
  ∀ s : State, s.Inv → ∀ i : Instr, ∃ t, exec i s = .next t

/-- R261, R291, R298: a running command completes, or is abandoned by a reset, after finitely many steps, at the latest
when its scheduled turns are used up (log 5): until then the same command runs on the same latch, and where the host has no
reset edge left to issue, what ends it is the engine's completion. -/
def Obligations.RunningCommandEndsWithinItsTurns : Prop :=
  ∀ s : State, s.Inv → s.busy = true →
    ∃ k u t, k ≤ s.turns.length ∧ Host.Core.run Sys2Proof.core k s = .next u ∧
      u.busy = true ∧ u.lastCmd = s.lastCmd ∧ u.latch = s.latch ∧ step u = .next t ∧ t.busy = false ∧
      (.resetAssert ∉ s.hostQueue → .resetRelease ∉ s.hostQueue →
        engineTurn { u with turns := u.turns.tail } = .next t)

/-- R36, R297, and the spec's inference R277: the outcome of a running command does not depend on ARG0-2 and CTRL, nor
changes them: only the latch counts. -/
def Obligations.RunningCommandReadsOnlyTheLatch : Prop :=
  ∀ (i : Instr) (s : State) (a0 a1 a2 : Word) (md : MapMode),
    exec i { s with arg0 := a0, arg1 := a1, arg2 := a2, mapMode := md } =
      Spec.mapNext (fun t => { t with arg0 := a0, arg1 := a1, arg2 := a2, mapMode := md }) (exec i s)

/-- R292 and the spec's inference R83: no command reads a byte that nothing has written since reset: under the invariant its outcome is the same
for every draw of the unwritten bytes (log 3). -/
def Obligations.CommandsNeverSeeUnwrittenBytes : Prop :=
  ∀ s : State, s.Inv → ∀ (i : Instr) (n : Nat),
    exec i { s with resets := n } = Spec.mapNext (fun t => { t with resets := n }) (exec i s)

/-! ### The invariant and reset (R40, R44, R290) -/

/-- R44, and the spec's inference R40: the state after reset meets the invariant. -/
def Obligations.ResetMeetsTheInvariant : Prop := State.reset.Inv

/-- R38, R70, and the spec's inference R40: every step, of the engine or of the host, keeps the invariant. -/
def Obligations.EveryStepKeepsTheInvariant : Prop :=
  ∀ s t : State, s.Inv → step s = .next t → t.Inv

/-- R40, R261, R265: from a state that meets the invariant no step stops the machine. -/
def Obligations.NoStepStopsTheMachine : Prop :=
  ∀ s : State, s.Inv → ∃ t, step s = .next t

/-- R44: what the registers read, the slots, the engine and pixel memory are after reset. That pixel memory lists no byte
and that each byte reads as the free value of its address is the model's form of "every byte holds an arbitrary value"
(log 3). The latch, to which R44 and U7 give no value (log 4), is not observable in any state: no register shows it, and an
acceptance overwrites it. -/
def Obligations.ResetLeavesTheListedValues : Prop :=
  readReg State.reset .id = 0x42534301#32 ∧ readReg State.reset .ctrl = 0#32 ∧ readReg State.reset .status = 0#32 ∧
    readReg State.reset .cmd = 0#32 ∧ readReg State.reset .arg0 = 0#32 ∧ readReg State.reset .arg1 = 0#32 ∧
    readReg State.reset .arg2 = 0#32 ∧ readReg State.reset .res0 = 0#32 ∧ readReg State.reset .res1 = 0#32 ∧
    readReg State.reset .res2 = 0#32 ∧ (∀ h, State.reset.slot h = ⟨false, 0#2, 0#32, 0#32, 0#32⟩) ∧
    (∀ a, State.reset.mem.read? a = none ∧ State.reset.byte a = Config.unwrittenByte State.reset.resets a) ∧
    State.reset.busy = false ∧
    ∀ (s : State) (l : Latch), (∀ w, accept { s with latch := l } w = accept s w) ∧
      ∀ r, readReg { s with latch := l } r = readReg s r

/-- R290, R291, R292: an edge of the reset line, also while a command runs, leaves every register and slot at its reset
value, the engine idle and every byte of pixel memory unspecified; while the line is asserted no access is accepted. The
model's choices in it: the latch, which R44 leaves unspecified, is zero and center-aligned (log 4); both edges set the reset
values, R290 giving them at the release (log 15); the unspecified bytes are a new draw of the free value, `resets + 1`
(log 3); the access has no response (log 14). -/
def Obligations.ResetLineResetsTheBlock : Prop :=
  ∀ s : State,
    (∀ line, perform s (if line then .resetAssert else .resetRelease) =
      { State.reset with
        pixmemBytes := s.pixmemBytes, bscBase := s.bscBase, resetAsserted := line, resets := s.resets + 1,
        hostQueue := s.hostQueue, turns := s.turns, busLog := s.busLog }) ∧
    (s.resetAsserted = true → ∀ a n v,
      perform s (.read a n) = { s with busLog := .noResponse :: s.busLog } ∧
        perform s (.write a n v) = { s with busLog := .noResponse :: s.busLog })

/-! ### Host accesses (20_memory.md) -/

/-- R31 to R39, R75: what an aligned 32-bit read of each mapped register answers, changing nothing else. -/
def Obligations.RegisterReadsAnswerTheMap : Prop :=
  ∀ (s : State) (h : Handle), s.resetAsserted = false →
    let rd := fun off => perform s (.read (s.bscBase + off) 4)
    let ans := fun v : Word => { s with busLog := .data v :: s.busLog }
    rd 0x000 = ans 0x42534301#32 ∧
      rd 0x004 = ans (if s.mapMode = .origin then 1#32 else 0#32) ∧
      rd 0x008 = ans (BitVec.ofNat 32 (s.busy.toNat + 16 * s.err.code.toNat + 256 * s.errSticky.toNat +
        512 * s.overrun.toNat + 1024 * s.busyAccess.toNat)) ∧
      rd 0x00C = ans s.lastCmd ∧ rd 0x010 = ans s.arg0 ∧ rd 0x014 = ans s.arg1 ∧ rd 0x018 = ans s.arg2 ∧
      rd 0x020 = ans s.res0 ∧ rd 0x024 = ans s.res1 ∧ rd 0x028 = ans s.res2 ∧
      rd (0x100 + 16 * h.val) = ans (BitVec.ofNat 32 ((s.slot h).valid.toNat + 2 * (s.slot h).ch.toNat)) ∧
      rd (0x104 + 16 * h.val) = ans (s.slot h).width ∧
      rd (0x108 + 16 * h.val) = ans (s.slot h).height ∧
      rd (0x10C + 16 * h.val) = ans (s.slot h).base

/-- R32, R33, R35, R76: what an aligned 32-bit write of each register other than CMD does. That an ignored write to a
read-only register has the normal response is deduced from R76 (log 20). -/
def Obligations.RegisterWritesFollowTheirFields : Prop :=
  ∀ (s : State) (h : Handle) (v : Word), s.resetAsserted = false →
    let wr := fun off => perform s (.write (s.bscBase + off) 4 v)
    let ok := fun t : State => { t with busLog := .done :: s.busLog }
    wr 0x004 = ok { s with mapMode := if v.toNat % 2 = 1 then .origin else .center } ∧
      wr 0x008 = ok { s with
        errSticky := s.errSticky && !decide (v.toNat / 256 % 2 = 1)
        overrun := s.overrun && !decide (v.toNat / 512 % 2 = 1)
        busyAccess := s.busyAccess && !decide (v.toNat / 1024 % 2 = 1) } ∧
      wr 0x010 = ok { s with arg0 := v } ∧ wr 0x014 = ok { s with arg1 := v } ∧ wr 0x018 = ok { s with arg2 := v } ∧
      wr 0x000 = ok s ∧ wr 0x020 = ok s ∧ wr 0x024 = ok s ∧ wr 0x028 = ok s ∧
      ∀ r, r < 4 → wr (0x100 + 16 * h.val + 4 * r) = ok s

/-- R34, R36, R108, R267: a write to CMD is accepted while the engine is idle (LASTCMD, the latch, BUSY), and dropped with
OVERRUN while a command runs. That the dropped write has the normal response is deduced from R76 (log 20). -/
def Obligations.CommandWriteIsAcceptedOrDropped : Prop :=
  ∀ (s : State) (w : Word), s.resetAsserted = false →
    (s.busy = false → perform s (.write (s.bscBase + 0x00C) 4 w) =
      { s with lastCmd := w, latch := ⟨s.arg0, s.arg1, s.arg2, s.mapMode⟩, busy := true
               busLog := .done :: s.busLog }) ∧
    (s.busy = true → perform s (.write (s.bscBase + 0x00C) 4 w) =
      { s with overrun := true, busLog := .done :: s.busLog })

/-- R71, R77, R78: an accepted window read of 1, 2 or 4 bytes answers them as a little-endian number and changes nothing
else. That the number of a 1- or 2-byte read is written as a 32-bit word, zero-extended, is the model's choice (log 19). -/
def Obligations.WindowReadsAreLittleEndian : Prop :=
  ∀ (s : State) (addr a n : Nat), s.resetAsserted = false → s.busy = false → s.pixmemBytes ≤ 0x01000000 →
    addr = s.bscBase + 0x01000000 + a → n = 1 ∨ n = 2 ∨ n = 4 → a % n = 0 → a + n ≤ s.pixmemBytes →
      perform s (.read addr n) =
        let v := ((List.range n).map fun k => (s.byte (a + k)).toNat * 256 ^ k).sum
        { s with busLog := .data (BitVec.ofNat 32 v) :: s.busLog }

/-- R72, R77, R78: an accepted window write stores byte `k` of its value at `a + k`, leaves every other byte as it was and
changes nothing else. R72 asks for a value below `256 ^ n`; that a 1- or 2-byte write takes the low bytes of a wider data
word is the model's choice (log 19). -/
def Obligations.WindowWritesAreLittleEndian : Prop :=
  ∀ (s : State) (addr a n : Nat) (v : Word), s.resetAsserted = false → s.busy = false → s.pixmemBytes ≤ 0x01000000 →
    addr = s.bscBase + 0x01000000 + a → n = 1 ∨ n = 2 ∨ n = 4 → a % n = 0 → a + n ≤ s.pixmemBytes →
      ∃ t, perform s (.write addr n v) = t ∧
        (∀ k, k < n → t.byte (a + k) = v.extractLsb' (8 * k) 8) ∧
        (∀ k, ¬(a ≤ k ∧ k < a + n) → t.byte k = s.byte k) ∧
        t = { s with mem := t.mem, busLog := .done :: s.busLog }

/-- R80, R268: while a command runs a window write is dropped and a window read answers 0; either sets BUSY_ACCESS and
changes nothing else. That this holds of the accesses R77 would reject is the reading of log 11; that the 0 of a narrow read
is written as a 32-bit word is log 19. -/
def Obligations.WindowIsBlockedWhileBusy : Prop :=
  ∀ (s : State) (addr a n : Nat) (v : Word), s.resetAsserted = false → s.busy = true → s.pixmemBytes ≤ 0x01000000 →
    addr = s.bscBase + 0x01000000 + a → a < s.pixmemBytes →
      perform s (.read addr n) = { s with busyAccess := true, busLog := .data 0#32 :: s.busLog } ∧
        perform s (.write addr n v) = { s with busyAccess := true, busLog := .done :: s.busLog }

/-- R75, R76, R77, R269: a register access of another width or at an offset the map has no register at, a window access
that is misaligned, not 1, 2 or 4 bytes wide (log 12) or past the end while the block is idle, and an access past pixel
memory get a bus error and change nothing. -/
def Obligations.RejectedAccessesChangeNothing : Prop :=
  ∀ (s : State) (off n : Nat) (v : Word), s.resetAsserted = false → off < 0x02000000 →
    (off < 0x01000000 ∧
        (n ≠ 4 ∨ (off ∉ [0x000, 0x004, 0x008, 0x00C, 0x010, 0x014, 0x018, 0x020, 0x024, 0x028] ∧
          ¬(0x100 ≤ off ∧ off < 0x200 ∧ off % 4 = 0)))) ∨
      (∃ a, off = 0x01000000 + a ∧
        (s.busy = false ∧ ((n ≠ 1 ∧ n ≠ 2 ∧ n ≠ 4) ∨ a % n ≠ 0 ∨ s.pixmemBytes < a + n) ∨ s.pixmemBytes ≤ a)) →
    perform s (.read (s.bscBase + off) n) = { s with busLog := .busError :: s.busLog } ∧
      perform s (.write (s.bscBase + off) n v) = { s with busLog := .busError :: s.busLog }

/-- R82: a read of any register or window byte changes nothing of the block, but that a window read while `BUSY = 1` sets
BUSY_ACCESS. -/
def Obligations.ReadsHaveNoOtherSideEffect : Prop :=
  ∀ (s : State) (a n : Nat), ∃ r,
    perform s (.read a n) = { s with busLog := r :: s.busLog } ∨
      (s.busy = true ∧ s.bscBase + 0x01000000 ≤ a ∧ a < s.bscBase + 0x01000000 + s.pixmemBytes ∧
        perform s (.read a n) = { s with busyAccess := true, busLog := r :: s.busLog })

/-! ### Control and pixel buffer commands (45_control.md, 40_pixel_buffer.md) -/

/-- R250: the word 0 and no other is NOP; it does nothing but complete with code 0. -/
def Obligations.NopOnlyCompletes : Prop :=
  (∀ w : Word, decode w = .ok .nop ↔ w = 0#32) ∧
    ∀ s : State, exec .nop s = .next { s with err := .none, busy := false }

/-- R131: BUF_CREATE into a free slot, with positive sizes up to MAX_DIM, 1 or 3 channels, and a region that fits pixel
memory and shares no byte with a live buffer, makes the buffer, zeroes exactly its bytes and answers its size. -/
def Obligations.BufCreateMakesAZeroedBuffer : Prop :=
  ∀ (s : State) (ha : Handle) (k w h : Nat),
    (s.slot ha).valid = false → s.latch.arg0.toInt = w → s.latch.arg1.toInt = h → 1 ≤ w → w ≤ 32767 → 1 ≤ h → h ≤ 32767 →
    k = 1 ∨ k = 3 → s.latch.arg2.toNat + w * h * k ≤ s.pixmemBytes → Spec.NoOverlap s s.latch.arg2.toNat (w * h * k) →
      ∃ t, exec (.bufCreate ha k) s = .next t ∧
        t.slot ha = ⟨true, BitVec.ofNat 2 k, s.latch.arg0, s.latch.arg1, s.latch.arg2⟩ ∧
        (∀ j, j ≠ ha → t.slot j = s.slot j) ∧
        (∀ a, s.latch.arg2.toNat ≤ a ∧ a < s.latch.arg2.toNat + w * h * k → t.byte a = 0#8) ∧
        (∀ a, ¬(s.latch.arg2.toNat ≤ a ∧ a < s.latch.arg2.toNat + w * h * k) → t.byte a = s.byte a) ∧
        t = { s with slots := t.slots, mem := t.mem, res0 := BitVec.ofNat 32 (w * h * k), err := .none, busy := false }

/-- R131: the errors of BUF_CREATE and their order: INVALID_PARAMETER for a live slot, a size that is not positive or a
channel count other than 1 and 3, then ALLOCATION_FAILURE for a size above MAX_DIM, a region that does not fit or one
that overlaps another live buffer. -/
def Obligations.BufCreateReportsTheFirstFailingCheck : Prop :=
  ∀ (s : State) (ha : Handle) (k : Nat),
    let w := s.latch.arg0.toInt
    let h := s.latch.arg1.toInt
    let b := s.latch.arg2.toNat
    let size := w.toNat * h.toNat * k
    ((s.slot ha).valid = true ∨ w ≤ 0 ∨ h ≤ 0 ∨ (k ≠ 1 ∧ k ≠ 3) →
      exec (.bufCreate ha k) s = .next (Spec.failed s .invalidParameter)) ∧
    ((s.slot ha).valid = false → 0 < w → 0 < h → k = 1 ∨ k = 3 →
      (32767 < w ∨ 32767 < h ∨ s.pixmemBytes < b + size ∨
        ∃ j, j ≠ ha ∧ (s.slot j).valid = true ∧ b < (s.slot j).base.toNat + slotSize (s.slot j) ∧
          (s.slot j).base.toNat < b + size) →
      exec (.bufCreate ha k) s = .next (Spec.failed s .allocationFailure))

/-- R132: BUF_RELEASE frees a live slot, changes nothing on a free one, always succeeds, and leaves pixel memory as it
is. -/
def Obligations.BufReleaseFreesTheSlot : Prop :=
  ∀ (s : State) (ha : Handle),
    decode (BitVec.ofNat 32 (0x02 + 256 * ha.val)) = .ok (.bufRelease ha) ∧
    ((s.slot ha).valid = true → ∃ t, exec (.bufRelease ha) s = .next t ∧
      t.slot ha = ⟨false, 0#2, 0#32, 0#32, 0#32⟩ ∧ (∀ j, j ≠ ha → t.slot j = s.slot j) ∧ (∀ a, t.byte a = s.byte a) ∧
      t = { s with slots := t.slots, err := .none, busy := false }) ∧
    ((s.slot ha).valid = false → exec (.bufRelease ha) s = .next { s with err := .none, busy := false })

/-! ### Fixed-point commands (41_fixed_point.md) -/

/-- R152, R162: FX_TOFIX is the floor of the exact binary32 value times 65536; INVALID_PARAMETER for a NaN, OVERFLOW for an
infinity or a result outside INT32. -/
def Obligations.FxToFixFloorsTheFloat : Prop :=
  decode 0x00000010#32 = .ok .fxToFix ∧
  ∀ s : State,
    let f := s.latch.arg0
    let r := ⌊Spec.f32Value f * 65536⌋
    (F32Nan f → exec .fxToFix s = .next (Spec.failed s .invalidParameter)) ∧
    (F32Inf f → exec .fxToFix s = .next (Spec.failed s .overflow)) ∧
    (¬F32Nan f → ¬F32Inf f → -2147483648 ≤ r ∧ r ≤ 2147483647 →
      exec .fxToFix s = .next { s with res0 := BitVec.ofInt 32 r, err := .none, busy := false }) ∧
    (¬F32Nan f → ¬F32Inf f → ¬(-2147483648 ≤ r ∧ r ≤ 2147483647) →
      exec .fxToFix s = .next (Spec.failed s .overflow))

/-- R153, R163: FX_TOFLT always completes; its result is +0.0 for 0 and else a normal binary32 number, the largest binary32
value not above the input. -/
def Obligations.FxToFltIsTheLargestFloatNotAbove : Prop :=
  decode 0x00000011#32 = .ok .fxToFlt ∧
  ∀ s : State, ∃ f : Word,
    exec .fxToFlt s = .next { s with res0 := f, err := .none, busy := false } ∧
    (s.latch.arg0 = 0#32 → f = 0#32) ∧
    (s.latch.arg0 ≠ 0#32 → 1 ≤ f32Exponent f ∧ f32Exponent f ≤ 254) ∧
    Spec.f32Value f ≤ (s.latch.arg0.toInt : ℚ) / 65536 ∧
    ∀ g : Word, f32Exponent g ≠ 255 → Spec.f32Value g ≤ (s.latch.arg0.toInt : ℚ) / 65536 →
      Spec.f32Value g ≤ Spec.f32Value f

/-- The inference the spec draws in R153 from R152 and R163: converting to binary32 and back gives the input where its magnitude is below 2^24 units, and never more than the
input. -/
def Obligations.FloatRoundTripNeverRises : Prop :=
  ∀ s t : State, exec .fxToFlt s = .next t →
    ∃ u, exec .fxToFix { t with latch := { t.latch with arg0 := t.res0 } } = .next u ∧ u.err = .none ∧
      u.res0.toInt ≤ s.latch.arg0.toInt ∧
      (-16777216 < s.latch.arg0.toInt ∧ s.latch.arg0.toInt < 16777216 → u.res0 = s.latch.arg0)

/-- R154: FX_FROMINT multiplies by 65536, or OVERFLOW. -/
def Obligations.FxFromIntScalesBy65536 : Prop :=
  decode 0x00000012#32 = .ok .fxFromInt ∧
  ∀ s : State,
    let n := s.latch.arg0.toInt
    (-32768 ≤ n ∧ n ≤ 32767 →
      exec .fxFromInt s = .next { s with res0 := BitVec.ofInt 32 (n * 65536), err := .none, busy := false }) ∧
    (¬(-32768 ≤ n ∧ n ≤ 32767) → exec .fxFromInt s = .next (Spec.failed s .overflow))

/-- R155: FX_ADD is the exact sum, or OVERFLOW. -/
def Obligations.FxAddIsExactOrOverflows : Prop :=
  decode 0x00000013#32 = .ok .fxAdd ∧
  ∀ s : State,
    let r := s.latch.arg0.toInt + s.latch.arg1.toInt
    (-2147483648 ≤ r ∧ r ≤ 2147483647 →
      exec .fxAdd s = .next { s with res0 := s.latch.arg0 + s.latch.arg1, err := .none, busy := false }) ∧
    (¬(-2147483648 ≤ r ∧ r ≤ 2147483647) → exec .fxAdd s = .next (Spec.failed s .overflow))

/-- R156: FX_SUB is the exact difference, or OVERFLOW. -/
def Obligations.FxSubIsExactOrOverflows : Prop :=
  decode 0x00000014#32 = .ok .fxSub ∧
  ∀ s : State,
    let r := s.latch.arg0.toInt - s.latch.arg1.toInt
    (-2147483648 ≤ r ∧ r ≤ 2147483647 →
      exec .fxSub s = .next { s with res0 := s.latch.arg0 - s.latch.arg1, err := .none, busy := false }) ∧
    (¬(-2147483648 ≤ r ∧ r ≤ 2147483647) → exec .fxSub s = .next (Spec.failed s .overflow))

/-- R157: FX_MUL is the exact product divided by 65536, rounded down, or OVERFLOW. -/
def Obligations.FxMulFloorsTheProduct : Prop :=
  decode 0x00000015#32 = .ok .fxMul ∧
  ∀ s : State,
    let r := ⌊(s.latch.arg0.toInt * s.latch.arg1.toInt : ℚ) / 65536⌋
    (-2147483648 ≤ r ∧ r ≤ 2147483647 →
      exec .fxMul s = .next { s with res0 := BitVec.ofInt 32 r, err := .none, busy := false }) ∧
    (¬(-2147483648 ≤ r ∧ r ≤ 2147483647) → exec .fxMul s = .next (Spec.failed s .overflow))

/-- R158: FX_DIV is DIV_BY_ZERO for a zero divisor, else the quotient of `a * 65536` by `b` rounded toward zero, or
OVERFLOW. -/
def Obligations.FxDivTruncatesTheQuotient : Prop :=
  decode 0x00000016#32 = .ok .fxDiv ∧
  ∀ s : State,
    let q := (s.latch.arg0.toInt * 65536 : ℚ) / s.latch.arg1.toInt
    let r := if 0 ≤ q then ⌊q⌋ else -⌊-q⌋
    (s.latch.arg1 = 0#32 → exec .fxDiv s = .next (Spec.failed s .divByZero)) ∧
    (s.latch.arg1 ≠ 0#32 → -2147483648 ≤ r ∧ r ≤ 2147483647 →
      exec .fxDiv s = .next { s with res0 := BitVec.ofInt 32 r, err := .none, busy := false }) ∧
    (s.latch.arg1 ≠ 0#32 → ¬(-2147483648 ≤ r ∧ r ≤ 2147483647) →
      exec .fxDiv s = .next (Spec.failed s .overflow))

/-- R159: FX_INT is the sign-extended upper half, the floor of the value. -/
def Obligations.FxIntIsTheFloor : Prop :=
  decode 0x00000017#32 = .ok .fxInt ∧
  ∀ s : State,
    exec .fxInt s =
      .next { s with res0 := (s.latch.arg0.extractLsb' 16 16).signExtend 32, err := .none, busy := false } ∧
    ((s.latch.arg0.extractLsb' 16 16).signExtend 32).toInt = ⌊(s.latch.arg0.toInt : ℚ) / 65536⌋

/-- R160: FX_FRAC is the lower half, zero-extended: never negative, also for a negative input. -/
def Obligations.FxFracIsTheLowHalf : Prop :=
  decode 0x00000018#32 = .ok .fxFrac ∧
  ∀ s : State,
    exec .fxFrac s = .next { s with res0 := BitVec.ofNat 32 (s.latch.arg0.toNat % 65536), err := .none, busy := false } ∧
    0 ≤ (BitVec.ofNat 32 (s.latch.arg0.toNat % 65536)).toInt ∧
      (BitVec.ofNat 32 (s.latch.arg0.toNat % 65536)).toInt < 65536

/-- The inference the spec draws in R160 from R159 and R160: the integer part and the fraction give the value back, also a
negative one. -/
def Obligations.IntAndFracGiveTheValueBack : Prop :=
  ∀ s : State, ∃ t u, exec .fxInt s = .next t ∧ exec .fxFrac s = .next u ∧
    t.res0.toInt * 65536 + u.res0.toInt = s.latch.arg0.toInt

/-! ### Coordinate mapper commands (42_coordinate_mapper.md) -/

/-- R180: MAP_STEP is the floor of `in * 65536 / out`, which is FXDIV of the two sizes as Q16.16 numbers;
INVALID_PARAMETER for a size outside [1, MAX_DIM]. -/
def Obligations.MapStepIsTheFlooredRatio : Prop :=
  decode 0x00000020#32 = .ok .mapStep ∧
  ∀ s : State,
    let i := s.latch.arg0.toInt
    let o := s.latch.arg1.toInt
    let r := ⌊(i * 65536 : ℚ) / o⌋
    (1 ≤ i ∧ i ≤ 32767 ∧ 1 ≤ o ∧ o ≤ 32767 →
      exec .mapStep s = .next { s with res0 := BitVec.ofInt 32 r, err := .none, busy := false } ∧
        fxDivUnits (BitVec.ofInt 32 (i * 65536)) (BitVec.ofInt 32 (o * 65536)) = r) ∧
    (¬(1 ≤ i ∧ i ≤ 32767 ∧ 1 ≤ o ∧ o ≤ 32767) → exec .mapStep s = .next (Spec.failed s .invalidParameter))

/-- R181: MAP_CENTER is `(o + 0.5) * step`, floored to Q16.16, minus 0.5; INVALID_PARAMETER for an out_coord outside
[0, MAX_DIM - 1] or a step that is not positive, OVERFLOW where the product leaves INT32. -/
def Obligations.MapCenterFollowsItsFormula : Prop :=
  decode 0x00000021#32 = .ok .mapCenter ∧
  ∀ s : State,
    let o := s.latch.arg0.toInt
    let st := s.latch.arg1.toInt
    let m := ⌊((o * 65536 + 32768) * st : ℚ) / 65536⌋
    (0 ≤ o ∧ o ≤ 32766 ∧ 1 ≤ st → -2147483648 ≤ m ∧ m ≤ 2147483647 →
      exec .mapCenter s = .next { s with res0 := BitVec.ofInt 32 (m - 32768), err := .none, busy := false }) ∧
    (0 ≤ o ∧ o ≤ 32766 ∧ 1 ≤ st → ¬(-2147483648 ≤ m ∧ m ≤ 2147483647) →
      exec .mapCenter s = .next (Spec.failed s .overflow)) ∧
    (¬(0 ≤ o ∧ o ≤ 32766 ∧ 1 ≤ st) → exec .mapCenter s = .next (Spec.failed s .invalidParameter))

/-- R182: MAP_ORIGIN is the exact product `o * step`; errors as MAP_CENTER. -/
def Obligations.MapOriginIsTheExactProduct : Prop :=
  decode 0x00000022#32 = .ok .mapOrigin ∧
  ∀ s : State,
    let o := s.latch.arg0.toInt
    let st := s.latch.arg1.toInt
    (0 ≤ o ∧ o ≤ 32766 ∧ 1 ≤ st → o * st ≤ 2147483647 →
      exec .mapOrigin s = .next { s with res0 := BitVec.ofInt 32 (o * st), err := .none, busy := false }) ∧
    (0 ≤ o ∧ o ≤ 32766 ∧ 1 ≤ st → 2147483647 < o * st → exec .mapOrigin s = .next (Spec.failed s .overflow)) ∧
    (¬(0 ≤ o ∧ o ≤ 32766 ∧ 1 ≤ st) → exec .mapOrigin s = .next (Spec.failed s .invalidParameter))

/-- The inference the spec draws in R182 from R155 and R182, the incremental form: adding the step with FX_ADD to the
coordinate of `o` gives that of `o + 1`, all three commands without error. -/
def Obligations.OriginCoordinatesAccumulate : Prop :=
  ∀ s : State,
    let o := s.latch.arg0.toInt
    let st := s.latch.arg1.toInt
    0 ≤ o ∧ o + 1 ≤ 32766 ∧ 1 ≤ st → (o + 1) * st ≤ 2147483647 → ∃ t u v,
      exec .mapOrigin s = .next t ∧
      exec .fxAdd { s with latch := { s.latch with arg0 := t.res0 } } = .next u ∧
      exec .mapOrigin { s with latch := { s.latch with arg0 := s.latch.arg0 + 1#32 } } = .next v ∧
      u.res0 = v.res0 ∧ t.err = .none ∧ u.err = .none ∧ v.err = .none

/-- R183: CLAMP clamps the index into [0, size - 1]; INVALID_PARAMETER for a size outside [1, MAX_DIM]. -/
def Obligations.ClampKeepsTheIndexInside : Prop :=
  decode 0x00000023#32 = .ok .clamp ∧
  ∀ s : State,
    let i := s.latch.arg0.toInt
    let n := s.latch.arg1.toInt
    (1 ≤ n ∧ n ≤ 32767 →
      exec .clamp s = .next { s with res0 := BitVec.ofInt 32 (max 0 (min i (n - 1))), err := .none, busy := false }) ∧
    (¬(1 ≤ n ∧ n ≤ 32767) → exec .clamp s = .next (Spec.failed s .invalidParameter))

/-- R184: MAP_NEIGH answers the floor of the coordinate and the index after it, both clamped, and the fraction;
INVALID_PARAMETER for a size outside [1, MAX_DIM]. -/
def Obligations.MapNeighSplitsTheCoordinate : Prop :=
  decode 0x00000024#32 = .ok .mapNeigh ∧
  ∀ s : State,
    let i := ⌊(s.latch.arg0.toInt : ℚ) / 65536⌋
    let n := s.latch.arg1.toInt
    (1 ≤ n ∧ n ≤ 32767 →
      exec .mapNeigh s = .next { s with
        res0 := BitVec.ofInt 32 (max 0 (min i (n - 1)))
        res1 := BitVec.ofInt 32 (max 0 (min (i + 1) (n - 1)))
        res2 := BitVec.ofNat 32 (s.latch.arg0.toNat % 65536)
        err := .none, busy := false }) ∧
    (¬(1 ≤ n ∧ n ≤ 32767) → exec .mapNeigh s = .next (Spec.failed s .invalidParameter))

/-- The spec's inference R186: along an axis with sizes in [1, MAX_DIM] the step and both source coordinates of every output coordinate stay in
INT32, the center-aligned one in [-0.5, in), the origin-aligned one in [0, in). -/
def Obligations.FrameCoordinatesStayInRange : Prop :=
  ∀ i n o : Nat, 1 ≤ i → i ≤ 32767 → 1 ≤ n → n ≤ 32767 → o < n →
    1 ≤ stepUnits i n ∧ stepUnits i n ≤ 2147483647 ∧
      -32768 ≤ srcCoord o i n .center ∧ srcCoord o i n .center < i * 65536 ∧
      centerProduct o (stepUnits i n) ≤ 2147483647 ∧
      0 ≤ srcCoord o i n .origin ∧ srcCoord o i n .origin < i * 65536

/-! ### Kernel commands (43_kernels.md) -/

/-- R200, R201, R202, R205: NN_SAMPLE answers, packed, the pixel at the clamped floor of the coordinate; INVALID_PARAMETER on
a free slot. The premise on a live slot is the slot clause of R40. -/
def Obligations.NnSampleAnswersTheNearestPixel : Prop :=
  ∀ (s : State) (ha : Handle),
    decode (BitVec.ofNat 32 (0x30 + 256 * ha.val)) = .ok (.nnSample ha) ∧
    ((s.slot ha).valid = false → exec (.nnSample ha) s = .next (Spec.failed s .invalidParameter)) ∧
    ((s.slot ha).valid = true → SoundSlot s.pixmemBytes (s.slot ha) →
      exec (.nnSample ha) s = .next { s with
        res0 := Spec.pack (s.slot ha).ch.toNat
          (Spec.nn s.byte (s.slot ha) s.latch.arg0.toInt s.latch.arg1.toInt)
        err := .none, busy := false })

/-- R200, R203, R204, R205: BL_SAMPLE answers, packed, the bilinear blend of the four clamped neighbours; INVALID_PARAMETER
on a free slot. The premise on a live slot is the slot clause of R40. -/
def Obligations.BlSampleAnswersTheBlend : Prop :=
  ∀ (s : State) (ha : Handle),
    decode (BitVec.ofNat 32 (0x31 + 256 * ha.val)) = .ok (.blSample ha) ∧
    ((s.slot ha).valid = false → exec (.blSample ha) s = .next (Spec.failed s .invalidParameter)) ∧
    ((s.slot ha).valid = true → SoundSlot s.pixmemBytes (s.slot ha) →
      exec (.blSample ha) s = .next { s with
        res0 := Spec.pack (s.slot ha).ch.toNat
          (Spec.bl s.byte (s.slot ha) s.latch.arg0.toInt s.latch.arg1.toInt)
        err := .none, busy := false })

/-- The model's choice (log 16): a sample or frame command whose live source slot breaks the slot clauses of R40 faults,
after its INVALID_PARAMETER checks. -/
def Obligations.UnsoundSourceSlotFaults : Prop :=
  ∀ (s : State) (hs hd : Handle) (sk : ScaleKind), (s.slot hs).valid = true → ¬SoundSlot s.pixmemBytes (s.slot hs) →
    exec (.nnSample hs) s = .fault .unsoundDescriptor ∧ exec (.blSample hs) s = .fault .unsoundDescriptor ∧
      (hd ≠ hs → (s.slot hd).valid = false → (∃ q, Spec.IsScale sk s.latch.arg0 s.latch.arg1 q) →
        exec (.nnScale hs hd sk) s = .fault .unsoundDescriptor ∧ exec (.blScale hs hd sk) s = .fault .unsoundDescriptor)

/-- The spec's inference R206: the bilinear sum lies between the smallest and the largest of the four neighbours, so the final clamp to [0, 255]
never changes it. -/
def Obligations.BilinearSumStaysBetweenItsNeighbours : Prop :=
  ∀ (p00 p01 p10 p11 : Byte) (dx dy : Nat), dx < 65536 → dy < 65536 →
    let s := bilinearSum p00.toNat p01.toNat p10.toNat p11.toNat dx dy
    let lo := min (min p00.toNat p01.toNat) (min p10.toNat p11.toNat)
    let hi := max (max p00.toNat p01.toNat) (max p10.toNat p11.toNat)
    65536 * (lo : Int) ≤ s ∧ s ≤ 65536 * (hi : Int) ∧ clampInt (shr16 s) 0 255 = shr16 s

/-! ### Frame commands (44_frame_scalers.md) -/

/-- What a successful frame command of opcode `op` does with kernel `K` (R222 to R226): the new buffer has the size of R222
and the format of the source, every sample of it is the kernel's value at the mapped coordinate, no other byte changes,
the results are the sizes. -/
def Sys2Proof.Spec.Resizes (op : Nat) (cmd : Handle → Handle → ScaleKind → Instr)
    (K : (Nat → Byte) → Slot → Int → Int → Nat → Nat) : Prop :=
  ∀ (s : State) (hs hd : Handle) (sk : ScaleKind) (q : ℚ),
    let d := s.slot hs
    let k := d.ch.toNat
    let wo := Spec.outDim d.width.toNat q
    let ho := Spec.outDim d.height.toNat q
    let b := s.latch.arg2.toNat
    decode (BitVec.ofNat 32 (op + 256 * hs.val + 4096 * hd.val + if sk = .rational then 65536 else 0)) =
      .ok (cmd hs hd sk) ∧
    (d.valid = true → SoundSlot s.pixmemBytes d → hd ≠ hs → (s.slot hd).valid = false →
      Spec.IsScale sk s.latch.arg0 s.latch.arg1 q → wo ≤ 32767 → ho ≤ 32767 → b + wo * ho * k ≤ s.pixmemBytes →
      Spec.NoOverlap s b (wo * ho * k) →
        ∃ t, exec (cmd hs hd sk) s = .next t ∧
          t.slot hd = ⟨true, d.ch, BitVec.ofNat 32 wo, BitVec.ofNat 32 ho, s.latch.arg2⟩ ∧
          (∀ j, j ≠ hd → t.slot j = s.slot j) ∧
          (∀ x y c, x < wo → y < ho → c < k →
            (t.byte (b + (y * wo + x) * k + c)).toNat =
              K s.byte d (Spec.src x d.width.toNat wo s.latch.mapMode) (Spec.src y d.height.toNat ho s.latch.mapMode) c) ∧
          (∀ a, ¬(b ≤ a ∧ a < b + wo * ho * k) → t.byte a = s.byte a) ∧
          t = { s with
                slots := t.slots, mem := t.mem, res0 := BitVec.ofNat 32 wo, res1 := BitVec.ofNat 32 ho
                res2 := BitVec.ofNat 32 (wo * ho * k), err := .none, busy := false })

/-- R225: NN_SCALE resizes by nearest neighbour. The premise on the source slot is the slot clause of R40. -/
def Obligations.NnScaleResizesByNearestNeighbour : Prop := Spec.Resizes 0x40 .nnScale Spec.nn

/-- R226: BL_SCALE resizes by bilinear interpolation. The premise on the source slot is the slot clause of R40. -/
def Obligations.BlScaleResizesByBilinearBlend : Prop := Spec.Resizes 0x41 .blScale Spec.bl

/-- R221, R223, R225, R226: the errors of the frame commands and their order: INVALID_PARAMETER for a free source, a
destination that is the source or live, or a scale that is not a positive number, then ALLOCATION_FAILURE for an output
size above MAX_DIM, a region that does not fit, or one that overlaps a live buffer. The premise of the second part on the
live source slot is the slot clauses of R40; without them UnsoundSourceSlotFaults says what the model does (log 16). -/
def Obligations.ScaleReportsTheFirstFailingCheck : Prop :=
  ∀ (s : State) (hs hd : Handle) (sk : ScaleKind) (cmd : Handle → Handle → ScaleKind → Instr),
    cmd = .nnScale ∨ cmd = .blScale →
    ((s.slot hs).valid = false ∨ hd = hs ∨ (s.slot hd).valid = true ∨
        (∀ q, ¬Spec.IsScale sk s.latch.arg0 s.latch.arg1 q) →
      exec (cmd hs hd sk) s = .next (Spec.failed s .invalidParameter)) ∧
    ∀ q, (s.slot hs).valid = true → SoundSlot s.pixmemBytes (s.slot hs) → hd ≠ hs → (s.slot hd).valid = false →
      Spec.IsScale sk s.latch.arg0 s.latch.arg1 q →
      (let wo := Spec.outDim (s.slot hs).width.toNat q
       let ho := Spec.outDim (s.slot hs).height.toNat q
       let size := wo * ho * (s.slot hs).ch.toNat
       32767 < wo ∨ 32767 < ho ∨ s.pixmemBytes < s.latch.arg2.toNat + size ∨
         ¬Spec.NoOverlap s s.latch.arg2.toNat size) →
      exec (cmd hs hd sk) s = .next (Spec.failed s .allocationFailure)

/-- The spec's inference R228, identity: a frame command whose scale is 1 and that succeeds copies the source byte for byte, whatever the method
and the mapping policy. -/
def Obligations.ScaleByOneCopiesTheSource : Prop :=
  ∀ (s t : State) (hs hd : Handle) (sk : ScaleKind) (cmd : Handle → Handle → ScaleKind → Instr),
    cmd = .nnScale ∨ cmd = .blScale → Spec.IsScale sk s.latch.arg0 s.latch.arg1 1 →
    exec (cmd hs hd sk) s = .next t → t.err = .none →
      ∀ n, n < slotSize (s.slot hs) →
        t.byte (s.latch.arg2.toNat + n) = s.byte ((s.slot hs).base.toNat + n)

/-- R89, R224: the samples of a frame may be computed in any order: every order of the samples leaves the memory of the
row-major execution, where source and destination share no byte. -/
def Obligations.FrameOrderIsNotObservable : Prop :=
  ∀ (p r : Nat) (src dst : Slot) (mode : MapMode) (m : Memory) (K : Kernel) (order : List (Nat × Nat × Nat)),
    K = nnValue ∨ K = blValue → SoundSlot p src → dst.ch = src.ch →
    src.base.toNat + slotSize src ≤ dst.base.toNat ∨ dst.base.toNat + slotSize dst ≤ src.base.toNat →
    order.Perm (rowMajor dst.width.toNat dst.height.toNat dst.ch.toNat) →
      ∀ a, byteAt r (frameLoop K r src dst mode m order) a =
        byteAt r (frameLoop K r src dst mode m (rowMajor dst.width.toNat dst.height.toNat dst.ch.toNat)) a

/-- The spec's inference R228, monotone gradients: where every row of a Gray source is the same non-decreasing row, every row of a successful
BL_SCALE's output is non-decreasing, under either mapping policy. -/
def Obligations.BilinearScaleKeepsRampsMonotone : Prop :=
  ∀ (s t : State) (hs hd : Handle) (sk : ScaleKind) (g : Nat → Byte), (s.slot hs).ch = 1#2 →
    (∀ x y, x < (s.slot hs).width.toNat → y < (s.slot hs).height.toNat →
      s.byte ((s.slot hs).base.toNat + y * (s.slot hs).width.toNat + x) = g x) →
    (∀ x, x + 1 < (s.slot hs).width.toNat → (g x).toNat ≤ (g (x + 1)).toNat) →
    exec (.blScale hs hd sk) s = .next t → t.err = .none →
      ∀ x y, x + 1 < (t.slot hd).width.toNat → y < (t.slot hd).height.toNat →
        (t.byte ((t.slot hd).base.toNat + y * (t.slot hd).width.toNat + x)).toNat ≤
          (t.byte ((t.slot hd).base.toNat + y * (t.slot hd).width.toNat + (x + 1))).toNat
end

