-- ==== Sys2Proof/Laws/Memory.lean ====
section
/-! SUPPORT. What each operation on pixel memory does: what reading gives after it, that it keeps the canonical form, and
which addresses it lists. -/

namespace Sys2Proof.Machine

/-! ### One byte (R72) -/

/-- Read after write: the written byte at its address, every other address as before. -/
theorem read?_write (m : Memory) (a : Nat) (b : Byte) (k : Nat) :
    (m.write a b).read? k = if k = a then some b else m.read? k := by
  induction m with
  | nil =>
    by_cases h : k = a
    · simp [Memory.write, Memory.read?, h]
    · simp [Memory.write, Memory.read?, h, Ne.symm h]
  | cons c m ih =>
    obtain ⟨c, x⟩ := c
    by_cases hk : k = a
    · subst hk
      rcases lt_trichotomy k c with h | h | h
      · simp [Memory.write, Memory.read?, h]
      · simp [Memory.write, Memory.read?, h]
      · simp [Memory.write, Memory.read?, Nat.not_lt_of_gt h, Nat.ne_of_gt h, Nat.ne_of_lt h, ih]
    · rcases lt_trichotomy a c with h | h | h
      · simp [Memory.write, Memory.read?, h, hk, Ne.symm hk]
      · subst h; simp [Memory.write, Memory.read?, hk, Ne.symm hk]
      · simp [Memory.write, Memory.read?, Nat.not_lt_of_gt h, Nat.ne_of_gt h, ih, hk]

/-- What a write lists: the written cell and cells listed before. -/
theorem mem_write {m : Memory} {a : Nat} {b : Byte} {p : Host.Cell} (hp : p ∈ m.write a b) :
    p = (a, b) ∨ p ∈ m := by
  induction m with
  | nil => simpa [Memory.write] using hp
  | cons c m ih =>
    obtain ⟨c, x⟩ := c
    simp only [Memory.write] at hp
    split at hp
    · simpa using hp
    · split at hp
      · rcases List.mem_cons.1 hp with h | h
        · exact .inl h
        · exact .inr (List.mem_cons_of_mem _ h)
      · rcases List.mem_cons.1 hp with h | h
        · exact .inr (by simp [h])
        · exact (ih h).imp id (List.mem_cons_of_mem _)

/-- A write keeps the canonical form. -/
theorem write_wf {m : Memory} (hm : m.wf) (a : Nat) (b : Byte) : (m.write a b).wf := by
  induction m with
  | nil => simp [Memory.write, Memory.wf]
  | cons c m ih =>
    obtain ⟨c, x⟩ := c
    obtain ⟨hc, hm'⟩ := List.pairwise_cons.1 hm
    simp only [Memory.write]
    split
    case isTrue h =>
      refine List.pairwise_cons.2 ⟨fun p hp => ?_, hm⟩
      rcases List.mem_cons.1 hp with rfl | hp
      · exact h
      · exact Nat.lt_trans h (hc p hp)
    case isFalse h =>
      split
      case isTrue h' => subst h'; exact List.pairwise_cons.2 ⟨hc, hm'⟩
      case isFalse h' =>
        refine List.pairwise_cons.2 ⟨fun p hp => ?_, ih hm'⟩
        rcases mem_write hp with rfl | hp
        · show c < a
          omega
        · exact hc p hp

/-- An address is listed exactly where it reads as something. -/
theorem read?_isSome_iff (m : Memory) (a : Nat) : (m.read? a).isSome ↔ ∃ b, (a, b) ∈ m := by
  induction m with
  | nil => simp [Memory.read?]
  | cons c m ih =>
    obtain ⟨c, x⟩ := c
    by_cases h : c = a
    · subst h; simp [Memory.read?]
    · simp [Memory.read?, h, ih, Ne.symm h]

/-! ### Runs of bytes (R72, R131) -/

/-- After a zero fill the region reads 0, every other address as before (R131, R223). -/
theorem read?_zeroFill (m : Memory) (b n k : Nat) :
    (m.zeroFill b n).read? k = if b ≤ k ∧ k < b + n then some 0#8 else m.read? k := by
  induction n generalizing m b with
  | zero =>
    have : ¬(b ≤ k ∧ k < b + 0) := by omega
    simp only [Memory.zeroFill, if_neg this]
  | succ n ih =>
    rw [Memory.zeroFill, ih, read?_write]
    by_cases h1 : b + 1 ≤ k ∧ k < b + 1 + n
    · rw [if_pos h1, if_pos (by omega)]
    · rw [if_neg h1]
      by_cases h2 : k = b
      · rw [if_pos h2, if_pos (by omega)]
      · rw [if_neg h2, if_neg (by omega)]

theorem mem_zeroFill {m : Memory} {b n : Nat} {p : Host.Cell} (hp : p ∈ m.zeroFill b n) :
    (b ≤ p.1 ∧ p.1 < b + n) ∨ p ∈ m := by
  induction n generalizing m b with
  | zero => exact .inr hp
  | succ n ih =>
    rcases ih hp with h | h
    · exact .inl (by omega)
    · rcases mem_write h with rfl | h
      · exact .inl ⟨Nat.le_refl _, by omega⟩
      · exact .inr h

theorem zeroFill_wf {m : Memory} (hm : m.wf) (b n : Nat) : (m.zeroFill b n).wf := by
  induction n generalizing m b with
  | zero => exact hm
  | succ n ih => exact ih (write_wf hm b 0#8) (b + 1)

/-- After a little-endian write the byte at distance `k` from its address is byte `k` of the value, every other address
reads as before (R72). -/
theorem read?_writeLE (m : Memory) (a n v k : Nat) :
    (m.writeLE a n v).read? k =
      if a ≤ k ∧ k < a + n then some (BitVec.ofNat 8 (v / 256 ^ (k - a))) else m.read? k := by
  induction n generalizing m a v with
  | zero =>
    have : ¬(a ≤ k ∧ k < a + 0) := by omega
    simp only [Memory.writeLE, if_neg this]
  | succ n ih =>
    rw [Memory.writeLE, ih, read?_write]
    by_cases h1 : a + 1 ≤ k ∧ k < a + 1 + n
    · have e : k - a = (k - (a + 1)) + 1 := by omega
      rw [if_pos h1, if_pos (by omega), e, Nat.pow_succ', Nat.div_div_eq_div_mul]
    · rw [if_neg h1]
      by_cases h2 : k = a
      · subst h2
        rw [if_pos rfl, if_pos (by omega)]
        simp
      · rw [if_neg h2, if_neg (by omega)]

theorem mem_writeLE {m : Memory} {a n v : Nat} {p : Host.Cell} (hp : p ∈ m.writeLE a n v) :
    (a ≤ p.1 ∧ p.1 < a + n) ∨ p ∈ m := by
  induction n generalizing m a v with
  | zero => exact .inr hp
  | succ n ih =>
    rcases ih hp with h | h
    · exact .inl (by omega)
    · rcases mem_write h with rfl | h
      · exact .inl ⟨Nat.le_refl _, by omega⟩
      · exact .inr h

theorem writeLE_wf {m : Memory} (hm : m.wf) (a n v : Nat) : (m.writeLE a n v).wf := by
  induction n generalizing m a v with
  | zero => exact hm
  | succ n ih => exact ih (write_wf hm a _) (a + 1) _

/-! ### Bytes of a state -/

theorem byteAt_write (resets : Nat) (m : Memory) (a : Nat) (b : Byte) (k : Nat) :
    byteAt resets (m.write a b) k = if k = a then b else byteAt resets m k := by
  unfold byteAt
  rw [read?_write]
  split <;> rfl

theorem byteAt_zeroFill (resets : Nat) (m : Memory) (b n k : Nat) :
    byteAt resets (m.zeroFill b n) k = if b ≤ k ∧ k < b + n then 0#8 else byteAt resets m k := by
  unfold byteAt
  rw [read?_zeroFill]
  split <;> rfl

theorem byteAt_writeLE (resets : Nat) (m : Memory) (a n v k : Nat) :
    byteAt resets (m.writeLE a n v) k =
      if a ≤ k ∧ k < a + n then BitVec.ofNat 8 (v / 256 ^ (k - a)) else byteAt resets m k := by
  unfold byteAt
  rw [read?_writeLE]
  split <;> rfl

/-- `MemRead` in closed form: the sum of its bytes by their weights (R71). -/
theorem readLE_eq_sum (s : State) (a n : Nat) :
    s.readLE a n = ((List.range n).map fun k => (s.byte (a + k)).toNat * 256 ^ k).sum := by
  induction n generalizing a with
  | zero => rfl
  | succ n ih =>
    rw [List.range_succ_eq_map, State.readLE, ih, ← List.sum_map_mul_left]
    simp only [List.map_cons, List.map_map, List.sum_cons, Nat.add_zero, Nat.pow_zero, Nat.mul_one]
    congr 3
    funext k
    simp only [Function.comp, Nat.pow_succ, show a + (k + 1) = a + 1 + k by omega]
    ring

/-- A written byte does not depend on the free values (R292). -/
theorem byteAt_of_read? {m : Memory} {a : Nat} {b : Byte} (h : m.read? a = some b) (resets : Nat) :
    byteAt resets m a = b := by
  simp [byteAt, h]

end Sys2Proof.Machine
end

