-- ==== Sys2Proof/Laws/Operands.lean ====
section
/-! SUPPORT. The pure functions of the datapath: ranges of clamped indices, sample addresses inside their slot, integers
and their 32-bit patterns. -/

namespace Sys2Proof.Machine

/-! ### Integers and patterns -/

/-- A pattern reads back as the integer it encodes (R8). -/
theorem s32_enc32 {n : Int} (h : InInt32 n) : s32 (enc32 n) = n := by
  unfold s32 enc32
  rw [BitVec.toInt_ofInt]
  apply Int.bmod_eq_of_le <;> omega

/-- Every pattern is the encoding of its integer (R8). -/
theorem enc32_s32 (v : Word) : enc32 (s32 v) = v := BitVec.ofInt_toInt

theorem s32_inInt32 (v : Word) : InInt32 (s32 v) := by
  have h1 := BitVec.toInt_lt (x := v)
  have h2 := BitVec.le_toInt (x := v)
  unfold InInt32 s32
  omega

/-- A natural number that fits reads back through `u32` (R8). -/
theorem u32_ofNat {n : Nat} (h : n < 4294967296) : u32 (BitVec.ofNat 32 n) = n := by
  simp only [u32, BitVec.toNat_ofNat]
  omega

/-- `FX_FRAC` in numbers: the value modulo 2^16 (R160). -/
theorem fracBits_toNat (a : Word) : (fracBits a).toNat = a.toNat % 65536 := by
  simp only [fracBits, BitVec.toNat_setWidth, BitVec.extractLsb'_toNat]
  omega

/-- `FX_FRAC` is the remainder of the signed value too (R160). -/
theorem fracBits_eq_emod (a : Word) : ((fracBits a).toNat : Int) = s32 a % 65536 := by
  rw [fracBits_toNat, s32, BitVec.toInt_eq_toNat_cond]
  have := a.isLt
  split <;> omega

/-! ### Clamping (R183) -/

theorem clampIdx_nonneg (i n : Int) (hn : 1 ≤ n) : 0 ≤ clampIdx i n := by
  unfold clampIdx clampInt; split <;> [skip; split] <;> omega

theorem clampIdx_lt (i n : Int) (hn : 1 ≤ n) : clampIdx i n < n := by
  unfold clampIdx clampInt; split <;> [skip; split] <;> omega

/-- `CLAMPIDX` as a minimum and a maximum (R183). -/
theorem clampIdx_eq (i n : Int) (hn : 1 ≤ n) : clampIdx i n = max 0 (min i (n - 1)) := by
  unfold clampIdx clampInt; split <;> [skip; split] <;> omega

theorem clampIdx_toNat_lt (i : Int) (n : Nat) (hn : 1 ≤ n) : (clampIdx i n).toNat < n := by
  have h1 := clampIdx_nonneg i n (by omega)
  have h2 := clampIdx_lt i n (by omega)
  omega

/-! ### Addresses of samples (R73, R83) -/

/-- A sample index inside the raster is below its number of bytes. -/
theorem sampleIndex_lt {x y c w h k : Nat} (hx : x < w) (hy : y < h) (hc : c < k) :
    (y * w + x) * k + c < w * h * k := by
  have h1 : y * w + x + 1 ≤ w * h := by
    have : (y + 1) * w ≤ h * w := Nat.mul_le_mul_right w hy
    rw [Nat.mul_comm w h]
    linarith
  have h2 : (y * w + x + 1) * k ≤ w * h * k := Nat.mul_le_mul_right k h1
  linarith

/-- A sample inside the raster lies in its slot's region (R73). -/
theorem paddr_lt {d : Slot} {x y c : Nat} (hx : x < d.width.toNat) (hy : y < d.height.toNat) (hc : c < d.ch.toNat) :
    paddr d x y c < d.base.toNat + slotSize d := by
  have := sampleIndex_lt hx hy hc
  unfold paddr slotSize
  omega

theorem base_le_paddr (d : Slot) (x y c : Nat) : d.base.toNat ≤ paddr d x y c := by
  unfold paddr; omega

/-- Different samples of a raster have different addresses (R73). -/
theorem paddr_inj {d : Slot} {x y c x' y' c' : Nat} (hx : x < d.width.toNat) (hc : c < d.ch.toNat)
    (hx' : x' < d.width.toNat) (hc' : c' < d.ch.toNat) (h : paddr d x y c = paddr d x' y' c') :
    x = x' ∧ y = y' ∧ c = c' := by
  have hk : 0 < d.ch.toNat := by omega
  have hw : 0 < d.width.toNat := by omega
  have e : (y * d.width.toNat + x) * d.ch.toNat + c = (y' * d.width.toNat + x') * d.ch.toNat + c' := by
    unfold paddr at h; omega
  have ec : c = c' := by
    have := congrArg (· % d.ch.toNat) e
    simpa [Nat.mul_add_mod_self_right, Nat.add_comm, Nat.add_mul_mod_self_right, Nat.mod_eq_of_lt hc,
      Nat.mod_eq_of_lt hc'] using this
  subst ec
  have e2 : y * d.width.toNat + x = y' * d.width.toNat + x' := Nat.eq_of_mul_eq_mul_right hk (by omega)
  have ex : x = x' := by
    have := congrArg (· % d.width.toNat) e2
    simpa [Nat.add_comm, Nat.add_mul_mod_self_right, Nat.mod_eq_of_lt hx, Nat.mod_eq_of_lt hx'] using this
  subst ex
  exact ⟨rfl, Nat.eq_of_mul_eq_mul_right hw (by omega), rfl⟩

/-- A sound slot's channel count is 1 or 3 (R40). -/
theorem SoundSlot.ch_pos {p : Nat} {d : Slot} (h : SoundSlot p d) : d.ch.toNat = 1 ∨ d.ch.toNat = 3 := by
  rcases h.1 with e | e <;> simp [e]

/-- What the nearest-neighbour kernel reads lies in its slot (R83). -/
theorem nnValue_congr {p : Nat} {d : Slot} (hd : SoundSlot p d) {rd rd' : Nat → Byte}
    (h : ∀ a, d.base.toNat ≤ a → a < d.base.toNat + slotSize d → rd a = rd' a) (sx sy : Word) {c : Nat}
    (hc : c < d.ch.toNat) : nnValue rd d sx sy c = nnValue rd' d sx sy c := by
  obtain ⟨-, hw, -, hh, -, -⟩ := hd
  exact h _ (base_le_paddr ..) (paddr_lt (clampIdx_toNat_lt _ _ hw) (clampIdx_toNat_lt _ _ hh) hc)

/-- What the bilinear kernel reads lies in its slot (R83). -/
theorem blValue_congr {p : Nat} {d : Slot} (hd : SoundSlot p d) {rd rd' : Nat → Byte}
    (h : ∀ a, d.base.toNat ≤ a → a < d.base.toNat + slotSize d → rd a = rd' a) (sx sy : Word) {c : Nat}
    (hc : c < d.ch.toNat) : blValue rd d sx sy c = blValue rd' d sx sy c := by
  obtain ⟨-, hw, -, hh, -, -⟩ := hd
  have key : ∀ i j : Int, rd (paddr d (clampIdx i d.width.toNat).toNat (clampIdx j d.height.toNat).toNat c) =
      rd' (paddr d (clampIdx i d.width.toNat).toNat (clampIdx j d.height.toNat).toNat c) := fun i j =>
    h _ (base_le_paddr ..) (paddr_lt (clampIdx_toNat_lt _ _ hw) (clampIdx_toNat_lt _ _ hh) hc)
  simp only [blValue, neighLo, neighHi, key]

end Sys2Proof.Machine
end

