-- ==== Sys2Proof/Laws/State.lean ====
section
/-! SUPPORT. One lemma per field of State and per update of it, true by unfolding, so that no proof unfolds an update; and
the slot and byte readings of an updated state. -/

namespace Sys2Proof.Machine

/-! ### The fields after a completion (R261) -/

@[simp] theorem completionFlags_pixmemBytes (s : State) (c : ErrorCode) : (completionFlags s c).pixmemBytes = s.pixmemBytes := rfl
@[simp] theorem completionFlags_bscBase (s : State) (c : ErrorCode) : (completionFlags s c).bscBase = s.bscBase := rfl
@[simp] theorem completionFlags_mapMode (s : State) (c : ErrorCode) : (completionFlags s c).mapMode = s.mapMode := rfl
@[simp] theorem completionFlags_busy (s : State) (c : ErrorCode) : (completionFlags s c).busy = false := rfl
@[simp] theorem completionFlags_err (s : State) (c : ErrorCode) : (completionFlags s c).err = c := rfl
@[simp] theorem completionFlags_errSticky (s : State) (c : ErrorCode) : (completionFlags s c).errSticky = (s.errSticky || c != .none) := rfl
@[simp] theorem completionFlags_overrun (s : State) (c : ErrorCode) : (completionFlags s c).overrun = s.overrun := rfl
@[simp] theorem completionFlags_busyAccess (s : State) (c : ErrorCode) : (completionFlags s c).busyAccess = s.busyAccess := rfl
@[simp] theorem completionFlags_lastCmd (s : State) (c : ErrorCode) : (completionFlags s c).lastCmd = s.lastCmd := rfl
@[simp] theorem completionFlags_arg0 (s : State) (c : ErrorCode) : (completionFlags s c).arg0 = s.arg0 := rfl
@[simp] theorem completionFlags_arg1 (s : State) (c : ErrorCode) : (completionFlags s c).arg1 = s.arg1 := rfl
@[simp] theorem completionFlags_arg2 (s : State) (c : ErrorCode) : (completionFlags s c).arg2 = s.arg2 := rfl
@[simp] theorem completionFlags_res0 (s : State) (c : ErrorCode) : (completionFlags s c).res0 = s.res0 := rfl
@[simp] theorem completionFlags_res1 (s : State) (c : ErrorCode) : (completionFlags s c).res1 = s.res1 := rfl
@[simp] theorem completionFlags_res2 (s : State) (c : ErrorCode) : (completionFlags s c).res2 = s.res2 := rfl
@[simp] theorem completionFlags_latch (s : State) (c : ErrorCode) : (completionFlags s c).latch = s.latch := rfl
@[simp] theorem completionFlags_slots (s : State) (c : ErrorCode) : (completionFlags s c).slots = s.slots := rfl
@[simp] theorem completionFlags_mem (s : State) (c : ErrorCode) : (completionFlags s c).mem = s.mem := rfl
@[simp] theorem completionFlags_resetAsserted (s : State) (c : ErrorCode) : (completionFlags s c).resetAsserted = s.resetAsserted := rfl
@[simp] theorem completionFlags_resets (s : State) (c : ErrorCode) : (completionFlags s c).resets = s.resets := rfl
@[simp] theorem completionFlags_hostQueue (s : State) (c : ErrorCode) : (completionFlags s c).hostQueue = s.hostQueue := rfl
@[simp] theorem completionFlags_turns (s : State) (c : ErrorCode) : (completionFlags s c).turns = s.turns := rfl
@[simp] theorem completionFlags_busLog (s : State) (c : ErrorCode) : (completionFlags s c).busLog = s.busLog := rfl

/-! ### The fields after a dropped CMD write (R267) -/

@[simp] theorem setOverrun_pixmemBytes (s : State) : (setOverrun s).pixmemBytes = s.pixmemBytes := rfl
@[simp] theorem setOverrun_bscBase (s : State) : (setOverrun s).bscBase = s.bscBase := rfl
@[simp] theorem setOverrun_mapMode (s : State) : (setOverrun s).mapMode = s.mapMode := rfl
@[simp] theorem setOverrun_busy (s : State) : (setOverrun s).busy = s.busy := rfl
@[simp] theorem setOverrun_err (s : State) : (setOverrun s).err = s.err := rfl
@[simp] theorem setOverrun_errSticky (s : State) : (setOverrun s).errSticky = s.errSticky := rfl
@[simp] theorem setOverrun_overrun (s : State) : (setOverrun s).overrun = true := rfl
@[simp] theorem setOverrun_busyAccess (s : State) : (setOverrun s).busyAccess = s.busyAccess := rfl
@[simp] theorem setOverrun_lastCmd (s : State) : (setOverrun s).lastCmd = s.lastCmd := rfl
@[simp] theorem setOverrun_arg0 (s : State) : (setOverrun s).arg0 = s.arg0 := rfl
@[simp] theorem setOverrun_arg1 (s : State) : (setOverrun s).arg1 = s.arg1 := rfl
@[simp] theorem setOverrun_arg2 (s : State) : (setOverrun s).arg2 = s.arg2 := rfl
@[simp] theorem setOverrun_res0 (s : State) : (setOverrun s).res0 = s.res0 := rfl
@[simp] theorem setOverrun_res1 (s : State) : (setOverrun s).res1 = s.res1 := rfl
@[simp] theorem setOverrun_res2 (s : State) : (setOverrun s).res2 = s.res2 := rfl
@[simp] theorem setOverrun_latch (s : State) : (setOverrun s).latch = s.latch := rfl
@[simp] theorem setOverrun_slots (s : State) : (setOverrun s).slots = s.slots := rfl
@[simp] theorem setOverrun_mem (s : State) : (setOverrun s).mem = s.mem := rfl
@[simp] theorem setOverrun_resetAsserted (s : State) : (setOverrun s).resetAsserted = s.resetAsserted := rfl
@[simp] theorem setOverrun_resets (s : State) : (setOverrun s).resets = s.resets := rfl
@[simp] theorem setOverrun_hostQueue (s : State) : (setOverrun s).hostQueue = s.hostQueue := rfl
@[simp] theorem setOverrun_turns (s : State) : (setOverrun s).turns = s.turns := rfl
@[simp] theorem setOverrun_busLog (s : State) : (setOverrun s).busLog = s.busLog := rfl

/-! ### The fields after a blocked window access (R268) -/

@[simp] theorem setBusyAccess_pixmemBytes (s : State) : (setBusyAccess s).pixmemBytes = s.pixmemBytes := rfl
@[simp] theorem setBusyAccess_bscBase (s : State) : (setBusyAccess s).bscBase = s.bscBase := rfl
@[simp] theorem setBusyAccess_mapMode (s : State) : (setBusyAccess s).mapMode = s.mapMode := rfl
@[simp] theorem setBusyAccess_busy (s : State) : (setBusyAccess s).busy = s.busy := rfl
@[simp] theorem setBusyAccess_err (s : State) : (setBusyAccess s).err = s.err := rfl
@[simp] theorem setBusyAccess_errSticky (s : State) : (setBusyAccess s).errSticky = s.errSticky := rfl
@[simp] theorem setBusyAccess_overrun (s : State) : (setBusyAccess s).overrun = s.overrun := rfl
@[simp] theorem setBusyAccess_busyAccess (s : State) : (setBusyAccess s).busyAccess = true := rfl
@[simp] theorem setBusyAccess_lastCmd (s : State) : (setBusyAccess s).lastCmd = s.lastCmd := rfl
@[simp] theorem setBusyAccess_arg0 (s : State) : (setBusyAccess s).arg0 = s.arg0 := rfl
@[simp] theorem setBusyAccess_arg1 (s : State) : (setBusyAccess s).arg1 = s.arg1 := rfl
@[simp] theorem setBusyAccess_arg2 (s : State) : (setBusyAccess s).arg2 = s.arg2 := rfl
@[simp] theorem setBusyAccess_res0 (s : State) : (setBusyAccess s).res0 = s.res0 := rfl
@[simp] theorem setBusyAccess_res1 (s : State) : (setBusyAccess s).res1 = s.res1 := rfl
@[simp] theorem setBusyAccess_res2 (s : State) : (setBusyAccess s).res2 = s.res2 := rfl
@[simp] theorem setBusyAccess_latch (s : State) : (setBusyAccess s).latch = s.latch := rfl
@[simp] theorem setBusyAccess_slots (s : State) : (setBusyAccess s).slots = s.slots := rfl
@[simp] theorem setBusyAccess_mem (s : State) : (setBusyAccess s).mem = s.mem := rfl
@[simp] theorem setBusyAccess_resetAsserted (s : State) : (setBusyAccess s).resetAsserted = s.resetAsserted := rfl
@[simp] theorem setBusyAccess_resets (s : State) : (setBusyAccess s).resets = s.resets := rfl
@[simp] theorem setBusyAccess_hostQueue (s : State) : (setBusyAccess s).hostQueue = s.hostQueue := rfl
@[simp] theorem setBusyAccess_turns (s : State) : (setBusyAccess s).turns = s.turns := rfl
@[simp] theorem setBusyAccess_busLog (s : State) : (setBusyAccess s).busLog = s.busLog := rfl

/-! ### The fields after a STATUS write (R33) -/

@[simp] theorem clearStatus_pixmemBytes (s : State) (v : Word) : (clearStatus s v).pixmemBytes = s.pixmemBytes := rfl
@[simp] theorem clearStatus_bscBase (s : State) (v : Word) : (clearStatus s v).bscBase = s.bscBase := rfl
@[simp] theorem clearStatus_mapMode (s : State) (v : Word) : (clearStatus s v).mapMode = s.mapMode := rfl
@[simp] theorem clearStatus_busy (s : State) (v : Word) : (clearStatus s v).busy = s.busy := rfl
@[simp] theorem clearStatus_err (s : State) (v : Word) : (clearStatus s v).err = s.err := rfl
@[simp] theorem clearStatus_errSticky (s : State) (v : Word) : (clearStatus s v).errSticky = (s.errSticky && !v.getLsbD 8) := rfl
@[simp] theorem clearStatus_overrun (s : State) (v : Word) : (clearStatus s v).overrun = (s.overrun && !v.getLsbD 9) := rfl
@[simp] theorem clearStatus_busyAccess (s : State) (v : Word) : (clearStatus s v).busyAccess = (s.busyAccess && !v.getLsbD 10) := rfl
@[simp] theorem clearStatus_lastCmd (s : State) (v : Word) : (clearStatus s v).lastCmd = s.lastCmd := rfl
@[simp] theorem clearStatus_arg0 (s : State) (v : Word) : (clearStatus s v).arg0 = s.arg0 := rfl
@[simp] theorem clearStatus_arg1 (s : State) (v : Word) : (clearStatus s v).arg1 = s.arg1 := rfl
@[simp] theorem clearStatus_arg2 (s : State) (v : Word) : (clearStatus s v).arg2 = s.arg2 := rfl
@[simp] theorem clearStatus_res0 (s : State) (v : Word) : (clearStatus s v).res0 = s.res0 := rfl
@[simp] theorem clearStatus_res1 (s : State) (v : Word) : (clearStatus s v).res1 = s.res1 := rfl
@[simp] theorem clearStatus_res2 (s : State) (v : Word) : (clearStatus s v).res2 = s.res2 := rfl
@[simp] theorem clearStatus_latch (s : State) (v : Word) : (clearStatus s v).latch = s.latch := rfl
@[simp] theorem clearStatus_slots (s : State) (v : Word) : (clearStatus s v).slots = s.slots := rfl
@[simp] theorem clearStatus_mem (s : State) (v : Word) : (clearStatus s v).mem = s.mem := rfl
@[simp] theorem clearStatus_resetAsserted (s : State) (v : Word) : (clearStatus s v).resetAsserted = s.resetAsserted := rfl
@[simp] theorem clearStatus_resets (s : State) (v : Word) : (clearStatus s v).resets = s.resets := rfl
@[simp] theorem clearStatus_hostQueue (s : State) (v : Word) : (clearStatus s v).hostQueue = s.hostQueue := rfl
@[simp] theorem clearStatus_turns (s : State) (v : Word) : (clearStatus s v).turns = s.turns := rfl
@[simp] theorem clearStatus_busLog (s : State) (v : Word) : (clearStatus s v).busLog = s.busLog := rfl

/-! ### The fields after new pixel memory -/

@[simp] theorem setMem_pixmemBytes (s : State) (m : Memory) : (setMem s m).pixmemBytes = s.pixmemBytes := rfl
@[simp] theorem setMem_bscBase (s : State) (m : Memory) : (setMem s m).bscBase = s.bscBase := rfl
@[simp] theorem setMem_mapMode (s : State) (m : Memory) : (setMem s m).mapMode = s.mapMode := rfl
@[simp] theorem setMem_busy (s : State) (m : Memory) : (setMem s m).busy = s.busy := rfl
@[simp] theorem setMem_err (s : State) (m : Memory) : (setMem s m).err = s.err := rfl
@[simp] theorem setMem_errSticky (s : State) (m : Memory) : (setMem s m).errSticky = s.errSticky := rfl
@[simp] theorem setMem_overrun (s : State) (m : Memory) : (setMem s m).overrun = s.overrun := rfl
@[simp] theorem setMem_busyAccess (s : State) (m : Memory) : (setMem s m).busyAccess = s.busyAccess := rfl
@[simp] theorem setMem_lastCmd (s : State) (m : Memory) : (setMem s m).lastCmd = s.lastCmd := rfl
@[simp] theorem setMem_arg0 (s : State) (m : Memory) : (setMem s m).arg0 = s.arg0 := rfl
@[simp] theorem setMem_arg1 (s : State) (m : Memory) : (setMem s m).arg1 = s.arg1 := rfl
@[simp] theorem setMem_arg2 (s : State) (m : Memory) : (setMem s m).arg2 = s.arg2 := rfl
@[simp] theorem setMem_res0 (s : State) (m : Memory) : (setMem s m).res0 = s.res0 := rfl
@[simp] theorem setMem_res1 (s : State) (m : Memory) : (setMem s m).res1 = s.res1 := rfl
@[simp] theorem setMem_res2 (s : State) (m : Memory) : (setMem s m).res2 = s.res2 := rfl
@[simp] theorem setMem_latch (s : State) (m : Memory) : (setMem s m).latch = s.latch := rfl
@[simp] theorem setMem_slots (s : State) (m : Memory) : (setMem s m).slots = s.slots := rfl
@[simp] theorem setMem_mem (s : State) (m : Memory) : (setMem s m).mem = m := rfl
@[simp] theorem setMem_resetAsserted (s : State) (m : Memory) : (setMem s m).resetAsserted = s.resetAsserted := rfl
@[simp] theorem setMem_resets (s : State) (m : Memory) : (setMem s m).resets = s.resets := rfl
@[simp] theorem setMem_hostQueue (s : State) (m : Memory) : (setMem s m).hostQueue = s.hostQueue := rfl
@[simp] theorem setMem_turns (s : State) (m : Memory) : (setMem s m).turns = s.turns := rfl
@[simp] theorem setMem_busLog (s : State) (m : Memory) : (setMem s m).busLog = s.busLog := rfl

/-! ### The fields after a descriptor write (R38) -/

@[simp] theorem setSlot_pixmemBytes (s : State) (h : Handle) (d : Slot) : (setSlot s h d).pixmemBytes = s.pixmemBytes := rfl
@[simp] theorem setSlot_bscBase (s : State) (h : Handle) (d : Slot) : (setSlot s h d).bscBase = s.bscBase := rfl
@[simp] theorem setSlot_mapMode (s : State) (h : Handle) (d : Slot) : (setSlot s h d).mapMode = s.mapMode := rfl
@[simp] theorem setSlot_busy (s : State) (h : Handle) (d : Slot) : (setSlot s h d).busy = s.busy := rfl
@[simp] theorem setSlot_err (s : State) (h : Handle) (d : Slot) : (setSlot s h d).err = s.err := rfl
@[simp] theorem setSlot_errSticky (s : State) (h : Handle) (d : Slot) : (setSlot s h d).errSticky = s.errSticky := rfl
@[simp] theorem setSlot_overrun (s : State) (h : Handle) (d : Slot) : (setSlot s h d).overrun = s.overrun := rfl
@[simp] theorem setSlot_busyAccess (s : State) (h : Handle) (d : Slot) : (setSlot s h d).busyAccess = s.busyAccess := rfl
@[simp] theorem setSlot_lastCmd (s : State) (h : Handle) (d : Slot) : (setSlot s h d).lastCmd = s.lastCmd := rfl
@[simp] theorem setSlot_arg0 (s : State) (h : Handle) (d : Slot) : (setSlot s h d).arg0 = s.arg0 := rfl
@[simp] theorem setSlot_arg1 (s : State) (h : Handle) (d : Slot) : (setSlot s h d).arg1 = s.arg1 := rfl
@[simp] theorem setSlot_arg2 (s : State) (h : Handle) (d : Slot) : (setSlot s h d).arg2 = s.arg2 := rfl
@[simp] theorem setSlot_res0 (s : State) (h : Handle) (d : Slot) : (setSlot s h d).res0 = s.res0 := rfl
@[simp] theorem setSlot_res1 (s : State) (h : Handle) (d : Slot) : (setSlot s h d).res1 = s.res1 := rfl
@[simp] theorem setSlot_res2 (s : State) (h : Handle) (d : Slot) : (setSlot s h d).res2 = s.res2 := rfl
@[simp] theorem setSlot_latch (s : State) (h : Handle) (d : Slot) : (setSlot s h d).latch = s.latch := rfl
@[simp] theorem setSlot_slots (s : State) (h : Handle) (d : Slot) : (setSlot s h d).slots = s.slots.set h.val d h.isLt := rfl
@[simp] theorem setSlot_mem (s : State) (h : Handle) (d : Slot) : (setSlot s h d).mem = s.mem := rfl
@[simp] theorem setSlot_resetAsserted (s : State) (h : Handle) (d : Slot) : (setSlot s h d).resetAsserted = s.resetAsserted := rfl
@[simp] theorem setSlot_resets (s : State) (h : Handle) (d : Slot) : (setSlot s h d).resets = s.resets := rfl
@[simp] theorem setSlot_hostQueue (s : State) (h : Handle) (d : Slot) : (setSlot s h d).hostQueue = s.hostQueue := rfl
@[simp] theorem setSlot_turns (s : State) (h : Handle) (d : Slot) : (setSlot s h d).turns = s.turns := rfl
@[simp] theorem setSlot_busLog (s : State) (h : Handle) (d : Slot) : (setSlot s h d).busLog = s.busLog := rfl

/-! ### The fields after acceptance (R108) -/

@[simp] theorem accept_pixmemBytes (s : State) (w : Word) : (accept s w).pixmemBytes = s.pixmemBytes := rfl
@[simp] theorem accept_bscBase (s : State) (w : Word) : (accept s w).bscBase = s.bscBase := rfl
@[simp] theorem accept_mapMode (s : State) (w : Word) : (accept s w).mapMode = s.mapMode := rfl
@[simp] theorem accept_busy (s : State) (w : Word) : (accept s w).busy = true := rfl
@[simp] theorem accept_err (s : State) (w : Word) : (accept s w).err = s.err := rfl
@[simp] theorem accept_errSticky (s : State) (w : Word) : (accept s w).errSticky = s.errSticky := rfl
@[simp] theorem accept_overrun (s : State) (w : Word) : (accept s w).overrun = s.overrun := rfl
@[simp] theorem accept_busyAccess (s : State) (w : Word) : (accept s w).busyAccess = s.busyAccess := rfl
@[simp] theorem accept_lastCmd (s : State) (w : Word) : (accept s w).lastCmd = w := rfl
@[simp] theorem accept_arg0 (s : State) (w : Word) : (accept s w).arg0 = s.arg0 := rfl
@[simp] theorem accept_arg1 (s : State) (w : Word) : (accept s w).arg1 = s.arg1 := rfl
@[simp] theorem accept_arg2 (s : State) (w : Word) : (accept s w).arg2 = s.arg2 := rfl
@[simp] theorem accept_res0 (s : State) (w : Word) : (accept s w).res0 = s.res0 := rfl
@[simp] theorem accept_res1 (s : State) (w : Word) : (accept s w).res1 = s.res1 := rfl
@[simp] theorem accept_res2 (s : State) (w : Word) : (accept s w).res2 = s.res2 := rfl
@[simp] theorem accept_latch (s : State) (w : Word) : (accept s w).latch = ⟨s.arg0, s.arg1, s.arg2, s.mapMode⟩ := rfl
@[simp] theorem accept_slots (s : State) (w : Word) : (accept s w).slots = s.slots := rfl
@[simp] theorem accept_mem (s : State) (w : Word) : (accept s w).mem = s.mem := rfl
@[simp] theorem accept_resetAsserted (s : State) (w : Word) : (accept s w).resetAsserted = s.resetAsserted := rfl
@[simp] theorem accept_resets (s : State) (w : Word) : (accept s w).resets = s.resets := rfl
@[simp] theorem accept_hostQueue (s : State) (w : Word) : (accept s w).hostQueue = s.hostQueue := rfl
@[simp] theorem accept_turns (s : State) (w : Word) : (accept s w).turns = s.turns := rfl
@[simp] theorem accept_busLog (s : State) (w : Word) : (accept s w).busLog = s.busLog := rfl

/-! ### The fields after a bus response -/

@[simp] theorem respond_pixmemBytes (s : State) (r : BusResponse) : (respond s r).pixmemBytes = s.pixmemBytes := rfl
@[simp] theorem respond_bscBase (s : State) (r : BusResponse) : (respond s r).bscBase = s.bscBase := rfl
@[simp] theorem respond_mapMode (s : State) (r : BusResponse) : (respond s r).mapMode = s.mapMode := rfl
@[simp] theorem respond_busy (s : State) (r : BusResponse) : (respond s r).busy = s.busy := rfl
@[simp] theorem respond_err (s : State) (r : BusResponse) : (respond s r).err = s.err := rfl
@[simp] theorem respond_errSticky (s : State) (r : BusResponse) : (respond s r).errSticky = s.errSticky := rfl
@[simp] theorem respond_overrun (s : State) (r : BusResponse) : (respond s r).overrun = s.overrun := rfl
@[simp] theorem respond_busyAccess (s : State) (r : BusResponse) : (respond s r).busyAccess = s.busyAccess := rfl
@[simp] theorem respond_lastCmd (s : State) (r : BusResponse) : (respond s r).lastCmd = s.lastCmd := rfl
@[simp] theorem respond_arg0 (s : State) (r : BusResponse) : (respond s r).arg0 = s.arg0 := rfl
@[simp] theorem respond_arg1 (s : State) (r : BusResponse) : (respond s r).arg1 = s.arg1 := rfl
@[simp] theorem respond_arg2 (s : State) (r : BusResponse) : (respond s r).arg2 = s.arg2 := rfl
@[simp] theorem respond_res0 (s : State) (r : BusResponse) : (respond s r).res0 = s.res0 := rfl
@[simp] theorem respond_res1 (s : State) (r : BusResponse) : (respond s r).res1 = s.res1 := rfl
@[simp] theorem respond_res2 (s : State) (r : BusResponse) : (respond s r).res2 = s.res2 := rfl
@[simp] theorem respond_latch (s : State) (r : BusResponse) : (respond s r).latch = s.latch := rfl
@[simp] theorem respond_slots (s : State) (r : BusResponse) : (respond s r).slots = s.slots := rfl
@[simp] theorem respond_mem (s : State) (r : BusResponse) : (respond s r).mem = s.mem := rfl
@[simp] theorem respond_resetAsserted (s : State) (r : BusResponse) : (respond s r).resetAsserted = s.resetAsserted := rfl
@[simp] theorem respond_resets (s : State) (r : BusResponse) : (respond s r).resets = s.resets := rfl
@[simp] theorem respond_hostQueue (s : State) (r : BusResponse) : (respond s r).hostQueue = s.hostQueue := rfl
@[simp] theorem respond_turns (s : State) (r : BusResponse) : (respond s r).turns = s.turns := rfl
@[simp] theorem respond_busLog (s : State) (r : BusResponse) : (respond s r).busLog = r :: s.busLog := rfl

/-! ### The fields after a turn taken -/

@[simp] theorem popTurn_pixmemBytes (s : State) : (popTurn s).pixmemBytes = s.pixmemBytes := rfl
@[simp] theorem popTurn_bscBase (s : State) : (popTurn s).bscBase = s.bscBase := rfl
@[simp] theorem popTurn_mapMode (s : State) : (popTurn s).mapMode = s.mapMode := rfl
@[simp] theorem popTurn_busy (s : State) : (popTurn s).busy = s.busy := rfl
@[simp] theorem popTurn_err (s : State) : (popTurn s).err = s.err := rfl
@[simp] theorem popTurn_errSticky (s : State) : (popTurn s).errSticky = s.errSticky := rfl
@[simp] theorem popTurn_overrun (s : State) : (popTurn s).overrun = s.overrun := rfl
@[simp] theorem popTurn_busyAccess (s : State) : (popTurn s).busyAccess = s.busyAccess := rfl
@[simp] theorem popTurn_lastCmd (s : State) : (popTurn s).lastCmd = s.lastCmd := rfl
@[simp] theorem popTurn_arg0 (s : State) : (popTurn s).arg0 = s.arg0 := rfl
@[simp] theorem popTurn_arg1 (s : State) : (popTurn s).arg1 = s.arg1 := rfl
@[simp] theorem popTurn_arg2 (s : State) : (popTurn s).arg2 = s.arg2 := rfl
@[simp] theorem popTurn_res0 (s : State) : (popTurn s).res0 = s.res0 := rfl
@[simp] theorem popTurn_res1 (s : State) : (popTurn s).res1 = s.res1 := rfl
@[simp] theorem popTurn_res2 (s : State) : (popTurn s).res2 = s.res2 := rfl
@[simp] theorem popTurn_latch (s : State) : (popTurn s).latch = s.latch := rfl
@[simp] theorem popTurn_slots (s : State) : (popTurn s).slots = s.slots := rfl
@[simp] theorem popTurn_mem (s : State) : (popTurn s).mem = s.mem := rfl
@[simp] theorem popTurn_resetAsserted (s : State) : (popTurn s).resetAsserted = s.resetAsserted := rfl
@[simp] theorem popTurn_resets (s : State) : (popTurn s).resets = s.resets := rfl
@[simp] theorem popTurn_hostQueue (s : State) : (popTurn s).hostQueue = s.hostQueue := rfl
@[simp] theorem popTurn_turns (s : State) : (popTurn s).turns = s.turns.tail := rfl
@[simp] theorem popTurn_busLog (s : State) : (popTurn s).busLog = s.busLog := rfl

/-! ### The fields after a reset (R290) -/

@[simp] theorem applyReset_pixmemBytes (s : State) (line : Bool) : (applyReset s line).pixmemBytes = s.pixmemBytes := rfl
@[simp] theorem applyReset_bscBase (s : State) (line : Bool) : (applyReset s line).bscBase = s.bscBase := rfl
@[simp] theorem applyReset_mapMode (s : State) (line : Bool) : (applyReset s line).mapMode = State.reset.mapMode := rfl
@[simp] theorem applyReset_busy (s : State) (line : Bool) : (applyReset s line).busy = State.reset.busy := rfl
@[simp] theorem applyReset_err (s : State) (line : Bool) : (applyReset s line).err = State.reset.err := rfl
@[simp] theorem applyReset_errSticky (s : State) (line : Bool) : (applyReset s line).errSticky = State.reset.errSticky := rfl
@[simp] theorem applyReset_overrun (s : State) (line : Bool) : (applyReset s line).overrun = State.reset.overrun := rfl
@[simp] theorem applyReset_busyAccess (s : State) (line : Bool) : (applyReset s line).busyAccess = State.reset.busyAccess := rfl
@[simp] theorem applyReset_lastCmd (s : State) (line : Bool) : (applyReset s line).lastCmd = State.reset.lastCmd := rfl
@[simp] theorem applyReset_arg0 (s : State) (line : Bool) : (applyReset s line).arg0 = State.reset.arg0 := rfl
@[simp] theorem applyReset_arg1 (s : State) (line : Bool) : (applyReset s line).arg1 = State.reset.arg1 := rfl
@[simp] theorem applyReset_arg2 (s : State) (line : Bool) : (applyReset s line).arg2 = State.reset.arg2 := rfl
@[simp] theorem applyReset_res0 (s : State) (line : Bool) : (applyReset s line).res0 = State.reset.res0 := rfl
@[simp] theorem applyReset_res1 (s : State) (line : Bool) : (applyReset s line).res1 = State.reset.res1 := rfl
@[simp] theorem applyReset_res2 (s : State) (line : Bool) : (applyReset s line).res2 = State.reset.res2 := rfl
@[simp] theorem applyReset_latch (s : State) (line : Bool) : (applyReset s line).latch = State.reset.latch := rfl
@[simp] theorem applyReset_slots (s : State) (line : Bool) : (applyReset s line).slots = State.reset.slots := rfl
@[simp] theorem applyReset_mem (s : State) (line : Bool) : (applyReset s line).mem = State.reset.mem := rfl
@[simp] theorem applyReset_resetAsserted (s : State) (line : Bool) : (applyReset s line).resetAsserted = line := rfl
@[simp] theorem applyReset_resets (s : State) (line : Bool) : (applyReset s line).resets = s.resets + 1 := rfl
@[simp] theorem applyReset_hostQueue (s : State) (line : Bool) : (applyReset s line).hostQueue = s.hostQueue := rfl
@[simp] theorem applyReset_turns (s : State) (line : Bool) : (applyReset s line).turns = s.turns := rfl
@[simp] theorem applyReset_busLog (s : State) (line : Bool) : (applyReset s line).busLog = s.busLog := rfl

/-! ### Slots and bytes of an updated state -/

@[simp] theorem completionFlags_slot (s : State) (c : ErrorCode) (j : Handle) : (completionFlags s c).slot j = s.slot j := rfl
@[simp] theorem completionFlags_byte (s : State) (c : ErrorCode) (a : Nat) : (completionFlags s c).byte a = s.byte a := rfl
@[simp] theorem setOverrun_slot (s : State) (j : Handle) : (setOverrun s).slot j = s.slot j := rfl
@[simp] theorem setOverrun_byte (s : State) (a : Nat) : (setOverrun s).byte a = s.byte a := rfl
@[simp] theorem setBusyAccess_slot (s : State) (j : Handle) : (setBusyAccess s).slot j = s.slot j := rfl
@[simp] theorem setBusyAccess_byte (s : State) (a : Nat) : (setBusyAccess s).byte a = s.byte a := rfl
@[simp] theorem clearStatus_slot (s : State) (v : Word) (j : Handle) : (clearStatus s v).slot j = s.slot j := rfl
@[simp] theorem clearStatus_byte (s : State) (v : Word) (a : Nat) : (clearStatus s v).byte a = s.byte a := rfl
@[simp] theorem setMem_slot (s : State) (m : Memory) (j : Handle) : (setMem s m).slot j = s.slot j := rfl
@[simp] theorem setSlot_byte (s : State) (h : Handle) (d : Slot) (a : Nat) : (setSlot s h d).byte a = s.byte a := rfl
@[simp] theorem accept_slot (s : State) (w : Word) (j : Handle) : (accept s w).slot j = s.slot j := rfl
@[simp] theorem accept_byte (s : State) (w : Word) (a : Nat) : (accept s w).byte a = s.byte a := rfl
@[simp] theorem respond_slot (s : State) (r : BusResponse) (j : Handle) : (respond s r).slot j = s.slot j := rfl
@[simp] theorem respond_byte (s : State) (r : BusResponse) (a : Nat) : (respond s r).byte a = s.byte a := rfl
@[simp] theorem popTurn_slot (s : State) (j : Handle) : (popTurn s).slot j = s.slot j := rfl
@[simp] theorem popTurn_byte (s : State) (a : Nat) : (popTurn s).byte a = s.byte a := rfl

@[simp] theorem setMem_byte (s : State) (m : Memory) (a : Nat) : (setMem s m).byte a = byteAt s.resets m a := rfl

/-- `D[h]` right after it is written (R38). -/
@[simp] theorem setSlot_slot_self (s : State) (h : Handle) (d : Slot) : (setSlot s h d).slot h = d := by
  simp [State.slot, setSlot, Vector.get_eq_getElem]

/-- Writing `D[h]` leaves every other slot as it was (R38). -/
theorem setSlot_slot_ne (s : State) {h j : Handle} (d : Slot) (hne : j ≠ h) : (setSlot s h d).slot j = s.slot j := by
  have : h.val ≠ j.val := fun e => hne (Fin.ext e.symm)
  simp [State.slot, setSlot, Vector.get_eq_getElem, this]

/-- Every slot is free after reset (R44). -/
@[simp] theorem reset_slot (h : Handle) : State.reset.slot h = Slot.free := by
  simp [State.slot, State.reset, Vector.get_eq_getElem]

@[simp] theorem applyReset_slot (s : State) (line : Bool) (h : Handle) : (applyReset s line).slot h = Slot.free :=
  reset_slot h

end Sys2Proof.Machine
end

