-- ==== Sys2Proof/Laws/Ops.lean ====
section
/-! SUPPORT. What each shared operation can do, said once: allocation, the frame loop, the end of a command, the sample and
frame commands, host accesses, the turns of a step. -/

namespace Sys2Proof.Machine

/-! ### The end of a command (R261, R262) -/

@[simp] theorem commit_eq (s : State) : commit s = .next (completionFlags s .none) := rfl

@[simp] theorem raiseError_eq (s : State) (c : ErrorCode) : raiseError s c = .next (completionFlags s c) := rfl

/-- A completion with an error sets ERR, ERR_STICKY and BUSY, and nothing else (R261). -/
theorem completionFlags_error (s : State) {c : ErrorCode} (hc : c ≠ .none) :
    completionFlags s c = { s with err := c, errSticky := true, busy := false } := by
  have : (c != ErrorCode.none) = true := by simpa using hc
  simp [completionFlags, this]

/-- A completion without one sets ERR and BUSY, and nothing else (R261). -/
theorem completionFlags_none (s : State) : completionFlags s .none = { s with err := .none, busy := false } := by
  simp [completionFlags]

/-- A range-checked result: written where it fits, else OVERFLOW (R151). -/
theorem commitChecked_cases (s : State) (r : Int) :
    (InInt32 r ∧ commitChecked s r = .next { s with res0 := enc32 r, err := .none, busy := false }) ∨
      (¬InInt32 r ∧ commitChecked s r = .next { s with err := .overflow, errSticky := true, busy := false }) := by
  unfold commitChecked
  by_cases h : InInt32 r
  · exact .inl ⟨h, by simp [h, commitRes0, completionFlags_none]⟩
  · exact .inr ⟨h, by rw [if_neg h, raiseError_eq, completionFlags_error _ (by decide)]⟩

/-! ### Allocation (R131, R223) -/

/-- When allocation succeeds, and what it then is. -/
theorem allocate_eq_some {s t : State} {h : Handle} {w ht k b : Nat} :
    allocate s h w ht k b = some t ↔
      (w ≤ Config.maxDim ∧ ht ≤ Config.maxDim) ∧ b + w * ht * k ≤ s.pixmemBytes ∧ ¬OverlapsLive s b (w * ht * k) ∧
        t = setSlot (setMem s (s.mem.zeroFill b (w * ht * k))) h
          ⟨true, BitVec.ofNat 2 k, BitVec.ofNat 32 w, BitVec.ofNat 32 ht, BitVec.ofNat 32 b⟩ := by
  unfold allocate
  split
  · rename_i h1
    simp only [reduceCtorEq, false_iff]
    rintro ⟨⟨h2, h3⟩, -⟩
    omega
  · rename_i h1
    split
    · rename_i h2
      simp only [reduceCtorEq, false_iff]
      rintro ⟨-, h3, -⟩
      omega
    · rename_i h2
      split
      · rename_i h3
        simp only [reduceCtorEq, false_iff]
        rintro ⟨-, -, h4, -⟩
        exact h4 h3
      · rename_i h3
        simp only [Option.some.injEq]
        constructor
        · rintro rfl
          exact ⟨by omega, by omega, h3, rfl⟩
        · rintro ⟨-, -, -, rfl⟩
          rfl

/-- When allocation fails. -/
theorem allocate_eq_none {s : State} {h : Handle} {w ht k b : Nat} :
    allocate s h w ht k b = none ↔
      Config.maxDim < w ∨ Config.maxDim < ht ∨ s.pixmemBytes < b + w * ht * k ∨ OverlapsLive s b (w * ht * k) := by
  rw [Option.eq_none_iff_forall_ne_some]
  constructor
  · intro hn
    by_contra hc
    obtain ⟨h1, h2, h3, h4⟩ := not_or.1 hc |>.imp id fun x => (not_or.1 x).imp id fun y => not_or.1 y
    exact hn _ (allocate_eq_some.2 ⟨⟨by omega, by omega⟩, by omega, h4, rfl⟩)
  · intro hc t ht
    obtain ⟨⟨h1, h2⟩, h3, h4, -⟩ := allocate_eq_some.1 ht
    rcases hc with h | h | h | h
    · omega
    · omega
    · omega
    · exact h4 h

/-- No overlap with a live buffer, as disjoint ranges (R40). -/
theorem not_overlapsLive {s : State} {b size : Nat} :
    ¬OverlapsLive s b size ↔ ∀ j, (s.slot j).valid = true →
      (s.slot j).base.toNat + slotSize (s.slot j) ≤ b ∨ b + size ≤ (s.slot j).base.toNat := by
  constructor
  · intro h j hj
    by_contra hc
    exact h ⟨j, hj, by omega, by omega⟩
  · rintro h ⟨j, hj, h1, h2⟩
    rcases h j hj with h3 | h3 <;> omega

/-! ### The frame loop (R224) -/

theorem frameLoop_nil (K : Kernel) (r : Nat) (src dst : Slot) (mode : MapMode) (m : Memory) :
    frameLoop K r src dst mode m [] = m := rfl

theorem frameLoop_cons (K : Kernel) (r : Nat) (src dst : Slot) (mode : MapMode) (m : Memory) (p : Nat × Nat × Nat)
    (ps : List (Nat × Nat × Nat)) :
    frameLoop K r src dst mode m (p :: ps) = frameLoop K r src dst mode (framePixel K r src dst mode m p) ps := rfl

/-- The samples of a frame: exactly the triples inside the raster. -/
theorem mem_rowMajor {w h k x y c : Nat} : (x, y, c) ∈ rowMajor w h k ↔ x < w ∧ y < h ∧ c < k := by
  simp only [rowMajor, List.mem_flatMap, List.mem_range, List.mem_map, Prod.mk.injEq]
  constructor
  · rintro ⟨y', hy, x', hx, c', hc, rfl, rfl, rfl⟩
    exact ⟨hx, hy, hc⟩
  · rintro ⟨hx, hy, hc⟩
    exact ⟨y, hy, x, hx, c, hc, rfl, rfl, rfl⟩

/-- The frame loop writes only the samples it is given: every other address reads as before. -/
theorem frameLoop_read?_of_ne (K : Kernel) (r : Nat) (src dst : Slot) (mode : MapMode) (m : Memory)
    (ps : List (Nat × Nat × Nat)) (a : Nat) (h : ∀ p ∈ ps, paddr dst p.1 p.2.1 p.2.2 ≠ a) :
    (frameLoop K r src dst mode m ps).read? a = m.read? a := by
  induction ps generalizing m with
  | nil => rfl
  | cons p ps ih =>
    rw [frameLoop_cons, ih _ fun q hq => h q (List.mem_cons_of_mem _ hq), framePixel, read?_write,
      if_neg (h p List.mem_cons_self).symm]

/-- The frame loop keeps the canonical form. -/
theorem frameLoop_wf (K : Kernel) (r : Nat) (src dst : Slot) (mode : MapMode) {m : Memory} (hm : m.wf)
    (ps : List (Nat × Nat × Nat)) : (frameLoop K r src dst mode m ps).wf := by
  induction ps generalizing m with
  | nil => exact hm
  | cons p ps ih => exact ih (write_wf hm _ _)

/-- What the frame loop lists: samples of the destination, and cells listed before. -/
theorem mem_frameLoop {K : Kernel} {r : Nat} {src dst : Slot} {mode : MapMode} {m : Memory}
    {ps : List (Nat × Nat × Nat)} {q : Host.Cell} (hq : q ∈ frameLoop K r src dst mode m ps) :
    (∃ p ∈ ps, q.1 = paddr dst p.1 p.2.1 p.2.2) ∨ q ∈ m := by
  induction ps generalizing m with
  | nil => exact .inr hq
  | cons p ps ih =>
    rcases ih hq with ⟨p', hp', e⟩ | h
    · exact .inl ⟨p', List.mem_cons_of_mem _ hp', e⟩
    · rcases mem_write h with rfl | h
      · exact .inl ⟨p, List.mem_cons_self, rfl⟩
      · exact .inr h

/-- A listed address stays listed. -/
theorem frameLoop_isSome {K : Kernel} {r : Nat} {src dst : Slot} {mode : MapMode} {m : Memory}
    (ps : List (Nat × Nat × Nat)) {a : Nat} (h : (m.read? a).isSome) :
    ((frameLoop K r src dst mode m ps).read? a).isSome := by
  induction ps generalizing m with
  | nil => exact h
  | cons p ps ih =>
    refine ih ?_
    rw [framePixel, read?_write]
    split
    · rfl
    · exact h

/-! ### Sample and frame commands (R202, R204, R225, R226) -/

/-- Everything a sample command can do. -/
theorem sampleWith_cases (K : Kernel) (h : Handle) (s : State) :
    ((s.slot h).valid = false ∧
        sampleWith K h s = .next { s with err := .invalidParameter, errSticky := true, busy := false }) ∨
      ((s.slot h).valid = true ∧ ¬SoundSlot s.pixmemBytes (s.slot h) ∧ sampleWith K h s = .fault .unsoundDescriptor) ∨
      ((s.slot h).valid = true ∧ SoundSlot s.pixmemBytes (s.slot h) ∧
        sampleWith K h s = .next { s with
          res0 := packPixel (s.slot h).ch.toNat (K s.byte (s.slot h) s.latch.arg0 s.latch.arg1)
          err := .none, busy := false }) := by
  unfold sampleWith
  cases hv : (s.slot h).valid
  · exact .inl ⟨rfl, by simp [completionFlags_error]⟩
  · by_cases hs : SoundSlot s.pixmemBytes (s.slot h)
    · exact .inr (.inr ⟨rfl, hs, by simp [hs, commitRes0, completionFlags_none]⟩)
    · exact .inr (.inl ⟨rfl, hs, by simp [hs]⟩)

/-- Everything a frame command can do, with the checks that led there. -/
theorem scaleWith_cases (K : Kernel) (hs hd : Handle) (sk : ScaleKind) (s : State) :
    (((s.slot hs).valid = false ∨ hd = hs ∨ (s.slot hd).valid = true ∨
          scaleValue sk s.latch.arg0 s.latch.arg1 = none) ∧
        scaleWith K hs hd sk s = .next { s with err := .invalidParameter, errSticky := true, busy := false }) ∨
      ∃ q, (s.slot hs).valid = true ∧ hd ≠ hs ∧ (s.slot hd).valid = false ∧
        scaleValue sk s.latch.arg0 s.latch.arg1 = some q ∧
        ((¬SoundSlot s.pixmemBytes (s.slot hs) ∧ scaleWith K hs hd sk s = .fault .unsoundDescriptor) ∨
          (SoundSlot s.pixmemBytes (s.slot hs) ∧
            ((allocate s hd (outDim (s.slot hs).width.toNat q) (outDim (s.slot hs).height.toNat q)
                  (s.slot hs).ch.toNat (u32 s.latch.arg2) = none ∧
                scaleWith K hs hd sk s =
                  .next { s with err := .allocationFailure, errSticky := true, busy := false }) ∨
              ∃ t, allocate s hd (outDim (s.slot hs).width.toNat q) (outDim (s.slot hs).height.toNat q)
                  (s.slot hs).ch.toNat (u32 s.latch.arg2) = some t ∧
                scaleWith K hs hd sk s = .next { frame K t hs hd with
                  res0 := enc32 (outDim (s.slot hs).width.toNat q : Nat)
                  res1 := enc32 (outDim (s.slot hs).height.toNat q : Nat)
                  res2 := enc32 (outDim (s.slot hs).width.toNat q * outDim (s.slot hs).height.toNat q *
                    (s.slot hs).ch.toNat : Nat)
                  err := .none, busy := false }))) := by
  unfold scaleWith
  cases hv : (s.slot hs).valid
  · exact .inl ⟨.inl rfl, by simp [completionFlags_error]⟩
  by_cases hne : hd = hs
  · exact .inl ⟨.inr (.inl hne), by simp [hne, completionFlags_error]⟩
  cases hdv : (s.slot hd).valid
  case true => exact .inl ⟨.inr (.inr (.inl rfl)), by simp [completionFlags_error]⟩
  cases hq : scaleValue sk s.latch.arg0 s.latch.arg1 with
  | none => exact .inl ⟨.inr (.inr (.inr rfl)), by simp [hne, completionFlags_error]⟩
  | some q =>
    refine .inr ⟨q, rfl, hne, rfl, rfl, ?_⟩
    by_cases hsd : SoundSlot s.pixmemBytes (s.slot hs)
    · refine .inr ⟨hsd, ?_⟩
      cases ha : allocate s hd (outDim (s.slot hs).width.toNat q) (outDim (s.slot hs).height.toNat q)
          (s.slot hs).ch.toNat (u32 s.latch.arg2) with
      | none => exact .inl ⟨rfl, by simp [hne, hsd, ha, completionFlags_error]⟩
      | some t => exact .inr ⟨t, rfl, by simp [hne, hsd, ha, commitRes, completionFlags_none]⟩
    · exact .inl ⟨hsd, by simp [hne, hsd]⟩

/-! ### Host accesses (R75 to R80) -/

/-- A read changes nothing of the block but, where it is blocked, BUSY_ACCESS (R82). -/
theorem hostRead_fst (s : State) (a n : Nat) :
    (hostRead s a n).1 = s ∨ (s.busy = true ∧ (∃ k, locate s a = .window k) ∧ (hostRead s a n).1 = setBusyAccess s) := by
  unfold hostRead
  split
  · exact .inl rfl
  · exact .inl rfl
  · split
    · exact .inl rfl
    · split <;> exact .inl rfl
  · rename_i k hk
    split
    · rename_i hb
      exact .inr ⟨hb, ⟨k, hk⟩, rfl⟩
    · split <;> exact .inl rfl

/-- A write does nothing, or is blocked, or writes a register, or writes bytes of pixel memory (R76, R77, R80). -/
theorem hostWrite_fst (s : State) (a n : Nat) (v : Word) :
    (hostWrite s a n v).1 = s ∨ (hostWrite s a n v).1 = setBusyAccess s ∨
      (∃ r, (hostWrite s a n v).1 = writeReg s r v) ∨
      ∃ k, WindowAccess s k n ∧ s.busy = false ∧ (hostWrite s a n v).1 = setMem s (s.mem.writeLE k n v.toNat) := by
  unfold hostWrite
  split
  · exact .inl rfl
  · exact .inl rfl
  · split
    · exact .inl rfl
    · rename_i r _
      split
      · exact .inr (.inr (.inl ⟨r, rfl⟩))
      · exact .inl rfl
  · rename_i k hk
    split
    · exact .inr (.inl rfl)
    · rename_i hb
      split
      · rename_i hw
        exact .inr (.inr (.inr ⟨k, hw, by simpa using hb, rfl⟩))
      · exact .inl rfl

/-- A register write changes no slot, no byte, no parameter and not the reset line (R32 to R35, R108). -/
theorem writeReg_frame (s : State) (r : Reg) (v : Word) :
    (writeReg s r v).mem = s.mem ∧ (writeReg s r v).slots = s.slots ∧ (writeReg s r v).pixmemBytes = s.pixmemBytes ∧
      (writeReg s r v).bscBase = s.bscBase ∧ (writeReg s r v).resetAsserted = s.resetAsserted ∧
      (writeReg s r v).resets = s.resets ∧ (writeReg s r v).hostQueue = s.hostQueue ∧
      (writeReg s r v).turns = s.turns ∧ (writeReg s r v).busLog = s.busLog := by
  cases r <;> simp [writeReg, issue]
  split <;> simp

/-! ### Turns (R84, R298) -/

/-- Whose turn a step is. -/
theorem step_cases (s : State) :
    (s.busy = true ∧ s.resetAsserted = false ∧ engineMoves s = true ∧ step s = engineTurn (popTurn s)) ∨
      (s.busy = true ∧ s.resetAsserted = false ∧ engineMoves s = false ∧ step s = hostTurn (popTurn s)) ∨
      ((s.busy = false ∨ s.resetAsserted = true) ∧ step s = hostTurn s) := by
  unfold step
  cases hb : s.busy <;> cases hr : s.resetAsserted <;> simp
  cases he : engineMoves s <;> simp

/-- What the host's turn does. -/
theorem hostTurn_cases (s : State) :
    (s.hostQueue = [] ∧ hostTurn s = .next s) ∨
      ∃ i rest, s.hostQueue = i :: rest ∧ hostTurn s = .next (perform { s with hostQueue := rest } i) := by
  unfold hostTurn
  cases h : s.hostQueue with
  | nil => exact .inl ⟨rfl, rfl⟩
  | cons i rest => exact .inr ⟨i, rest, rfl, rfl⟩

end Sys2Proof.Machine
end

