-- ==== Sys2Proof/Laws/Bus.lean ====
section
/-! SUPPORT. Where a bus address falls and what an access there does, for addresses written as offsets (R75 to R80). -/

namespace Sys2Proof.Machine

/-- An offset below the pixel window is a register offset (R75). -/
theorem locate_register (s : State) {off : Nat} (h : off < windowOffset) :
    locate s (s.bscBase + off) = .register off := by
  unfold locate
  unfold windowOffset at *
  unfold busWindowBytes
  rw [if_neg (by omega), if_pos (by omega), Nat.add_sub_cancel_left]

/-- A byte of pixel memory in the window (R75, R77). -/
theorem locate_window {s : State} {addr a : Nat} (e : addr = s.bscBase + windowOffset + a) (h : a < s.pixmemBytes)
    (ha : a < windowOffset) : locate s addr = .window a := by
  have e1 : addr - s.bscBase - windowOffset = a := by omega
  unfold locate
  rw [e1]
  unfold busWindowBytes
  unfold windowOffset at *
  rw [if_neg (by omega), if_neg (by omega), if_pos h]

/-- Past pixel memory nothing is mapped (R75). -/
theorem locate_unmapped {s : State} {addr a : Nat} (e : addr = s.bscBase + windowOffset + a) (h : s.pixmemBytes ≤ a)
    (ha : a < windowOffset) : locate s addr = .unmapped := by
  have e1 : addr - s.bscBase - windowOffset = a := by omega
  unfold locate
  rw [e1]
  unfold busWindowBytes
  unfold windowOffset at *
  rw [if_neg (by omega), if_neg (by omega), if_neg (by omega)]

/-- A window address is in the window (R75). -/
theorem of_locate_window {s : State} {addr a : Nat} (h : locate s addr = .window a) :
    addr = s.bscBase + windowOffset + a ∧ a < s.pixmemBytes := by
  unfold locate at h
  split at h
  · cases h
  split at h
  · cases h
  split at h
  · injection h with h
    omega
  · cases h

/-- The registers of the descriptor file (R75). -/
theorem regAt_descriptor (h : Handle) :
    regAt (0x100 + 16 * h.val) = some (.bufInfo h) ∧ regAt (0x104 + 16 * h.val) = some (.bufWidth h) ∧
      regAt (0x108 + 16 * h.val) = some (.bufHeight h) ∧ regAt (0x10C + 16 * h.val) = some (.bufBase h) := by
  revert h
  decide

/-- The map has no register elsewhere (R75). -/
theorem regAt_eq_none {off : Nat}
    (h : off ∉ [0x000, 0x004, 0x008, 0x00C, 0x010, 0x014, 0x018, 0x020, 0x024, 0x028])
    (h' : ¬(0x100 ≤ off ∧ off < 0x200 ∧ off % 4 = 0)) : regAt off = none := by
  simp only [List.mem_cons, List.not_mem_nil, or_false, not_or] at h
  have : regAt off = if 0x100 ≤ off ∧ off < 0x200 then descriptorReg (off - 0x100) else none := by
    unfold regAt
    split <;> first | rfl | simp_all
  rw [this]
  split
  · have e : (off - 0x100) % 16 % 4 ≠ 0 := by omega
    simp only [descriptorReg]
    split
    all_goals first | rfl | omega
  · rfl

/-- A 32-bit read at a mapped register offset answers the register (R76). -/
theorem perform_read_register {s : State} {off : Nat} {r : Reg} (hr : s.resetAsserted = false) (ho : off < windowOffset)
    (h : regAt off = some r) : perform s (.read (s.bscBase + off) 4) = respond s (.data (readReg s r)) := by
  simp [perform, hr, hostRead, locate_register s ho, h]

/-- A 32-bit write at a mapped register offset writes the register (R76). -/
theorem perform_write_register {s : State} {off : Nat} {r : Reg} (v : Word) (hr : s.resetAsserted = false)
    (ho : off < windowOffset) (h : regAt off = some r) :
    perform s (.write (s.bscBase + off) 4 v) = respond (writeReg s r v) .done := by
  simp [perform, hr, hostWrite, locate_register s ho, h]

/-- What a window read does: blocked while a command runs, else answered or rejected (R77, R80). -/
theorem hostRead_window {s : State} {addr a : Nat} (h : locate s addr = .window a) (n : Nat) :
    hostRead s addr n =
      if s.busy then (setBusyAccess s, .data 0#32)
      else if WindowAccess s a n then (s, .data (BitVec.ofNat 32 (s.readLE a n))) else (s, .busError) := by
  simp only [hostRead, h]

/-- What a window write does: blocked while a command runs, else stored or rejected (R77, R80). -/
theorem hostWrite_window {s : State} {addr a : Nat} (h : locate s addr = .window a) (n : Nat) (v : Word) :
    hostWrite s addr n v =
      if s.busy then (setBusyAccess s, .done)
      else if WindowAccess s a n then (setMem s (s.mem.writeLE a n v.toNat), .done) else (s, .busError) := by
  simp only [hostWrite, h]

end Sys2Proof.Machine
end

