-- ==== Sys2Proof/Laws/Exec.lean ====
section
/-! SUPPORT. What executing a command can do, said once for all commands (R261, R262). -/

namespace Sys2Proof.Machine

/-- The end of a command that failed: STATUS alone is changed (R262). -/
abbrev EndsFailed (s t : State) : Prop :=
  ∃ c, c ≠ ErrorCode.none ∧ t = { s with err := c, errSticky := true, busy := false }

/-- The end of a command that succeeded, with these results, slots and pixel memory (R262). -/
abbrev EndsWith (s t : State) (r0 r1 r2 : Word) (sl : Vector Slot 16) (m : Memory) : Prop :=
  t = { s with res0 := r0, res1 := r1, res2 := r2, slots := sl, mem := m, err := .none, busy := false }

theorem raiseError_next {s t : State} {c : ErrorCode} (hc : c ≠ .none) (h : raiseError s c = .next t) :
    EndsFailed s t := by
  rw [raiseError_eq, completionFlags_error _ hc] at h
  exact ⟨c, hc, (Host.Outcome.next.inj h).symm⟩

theorem commit_next {s t : State} (h : commit s = .next t) : t = { s with err := .none, busy := false } := by
  rw [commit_eq, completionFlags_none] at h
  exact (Host.Outcome.next.inj h).symm

theorem commitRes0_next {s t : State} {v : Word} (h : commitRes0 s v = .next t) :
    t = { s with res0 := v, err := .none, busy := false } := commit_next h

theorem commitChecked_next {s t : State} {r : Int} (h : commitChecked s r = .next t) :
    EndsFailed s t ∨ t = { s with res0 := enc32 r, err := .none, busy := false } := by
  unfold commitChecked at h
  split at h
  · exact .inr (commitRes0_next h)
  · exact .inl (raiseError_next (by decide) h)

/-- A sample command fails or writes RES0. -/
theorem sampleWith_next {K : Kernel} {h : Handle} {s t : State} (hh : sampleWith K h s = .next t) :
    EndsFailed s t ∨ ∃ v, t = { s with res0 := v, err := .none, busy := false } := by
  rcases sampleWith_cases K h s with ⟨-, e⟩ | ⟨-, -, e⟩ | ⟨-, -, e⟩ <;> rw [e] at hh
  · exact .inl ⟨_, by decide, (Host.Outcome.next.inj hh).symm⟩
  · cases hh
  · exact .inr ⟨_, (Host.Outcome.next.inj hh).symm⟩

/-- A frame command fails or writes the results, a slot and pixel memory. -/
theorem scaleWith_next {K : Kernel} {a b : Handle} {sk : ScaleKind} {s t : State}
    (hh : scaleWith K a b sk s = .next t) :
    EndsFailed s t ∨ ∃ r0 r1 r2 sl m, EndsWith s t r0 r1 r2 sl m := by
  rcases scaleWith_cases K a b sk s with
    ⟨-, e⟩ | ⟨q, -, -, -, -, ⟨-, e⟩ | ⟨-, ⟨-, e⟩ | ⟨u, ha, e⟩⟩⟩ <;> rw [e] at hh
  · exact .inl ⟨_, by decide, (Host.Outcome.next.inj hh).symm⟩
  · cases hh
  · exact .inl ⟨_, by decide, (Host.Outcome.next.inj hh).symm⟩
  · obtain ⟨-, -, -, rfl⟩ := allocate_eq_some.1 ha
    have e := (Host.Outcome.next.inj hh).symm
    simp only [frame, setMem, setSlot] at e
    exact .inr ⟨_, _, _, _, _, e⟩

/-- The commands that change pixel memory when they succeed (R131, R225, R226). -/
def WritesMemory : Instr → Bool
  | .bufCreate _ _ => true
  | .nnScale _ _ _ => true
  | .blScale _ _ _ => true
  | .nop | .bufRelease _ | .fxToFix | .fxToFlt | .fxFromInt | .fxAdd | .fxSub | .fxMul | .fxDiv | .fxInt | .fxFrac
  | .mapStep | .mapCenter | .mapOrigin | .clamp | .mapNeigh | .nnSample _ | .blSample _ => false

/-- The commands that change a descriptor slot when they succeed (R38). -/
def WritesSlots : Instr → Bool
  | .bufCreate _ _ => true
  | .bufRelease _ => true
  | .nnScale _ _ _ => true
  | .blScale _ _ _ => true
  | .nop | .fxToFix | .fxToFlt | .fxFromInt | .fxAdd | .fxSub | .fxMul | .fxDiv | .fxInt | .fxFrac
  | .mapStep | .mapCenter | .mapOrigin | .clamp | .mapNeigh | .nnSample _ | .blSample _ => false

/-- Everything a command that answers a next state can do: fail, or succeed with new results, and with new slots and new
memory only where it is a command that writes them. -/
theorem exec_next {i : Instr} {s t : State} (h : exec i s = .next t) :
    EndsFailed s t ∨ ∃ r0 r1 r2 sl m, EndsWith s t r0 r1 r2 sl m ∧
      (WritesMemory i = false → m = s.mem) ∧ (WritesSlots i = false → sl = s.slots) := by
  have done : ∀ v, t = { s with res0 := v, err := .none, busy := false } →
      ∃ r0 r1 r2 sl m, EndsWith s t r0 r1 r2 sl m ∧
        (WritesMemory i = false → m = s.mem) ∧ (WritesSlots i = false → sl = s.slots) := fun v hv =>
    ⟨v, s.res1, s.res2, s.slots, s.mem, hv, fun _ => rfl, fun _ => rfl⟩
  have fail : ∀ c, c ≠ ErrorCode.none → raiseError s c = .next t → EndsFailed s t := fun c hc hh =>
    raiseError_next hc hh
  have r0 : ∀ v, commitRes0 s v = .next t → _ := fun v hh => done v (commitRes0_next hh)
  have chk : ∀ r, commitChecked s r = .next t → _ := fun r hh => (commitChecked_next hh).imp id (done _)
  have smp : ∀ K a, sampleWith K a s = .next t → _ := fun K a hh =>
    (sampleWith_next hh).imp id fun ⟨v, hv⟩ => done v hv
  cases i with
  | nop => exact .inr (done s.res0 (commit_next h))
  | bufCreate a k =>
    simp only [exec, execBufCreate] at h
    split at h
    · exact .inl (fail _ (by decide) h)
    split at h
    · exact .inl (fail _ (by decide) h)
    split at h
    · exact .inl (fail _ (by decide) h)
    split at h
    · exact .inl (fail _ (by decide) h)
    rename_i ha
    obtain ⟨-, -, -, rfl⟩ := allocate_eq_some.1 ha
    obtain rfl := commitRes0_next h
    exact .inr ⟨_, _, _, _, _, rfl, nofun, nofun⟩
  | bufRelease a =>
    simp only [exec, execBufRelease] at h
    split at h
    · obtain rfl := commit_next h
      exact .inr ⟨_, _, _, _, _, rfl, fun _ => rfl, nofun⟩
    · exact .inr (done s.res0 (commit_next h))
  | fxToFix =>
    simp only [exec, execFxToFix] at h
    split at h
    · exact .inl (fail _ (by decide) h)
    split at h
    · exact .inl (fail _ (by decide) h)
    exact chk _ h
  | fxToFlt => exact .inr (r0 _ h)
  | fxFromInt => exact chk _ h
  | fxAdd => exact chk _ h
  | fxSub => exact chk _ h
  | fxMul => exact chk _ h
  | fxDiv =>
    simp only [exec, execFxDiv] at h
    split at h
    · exact .inl (fail _ (by decide) h)
    exact chk _ h
  | fxInt => exact .inr (r0 _ h)
  | fxFrac => exact .inr (r0 _ h)
  | mapStep =>
    simp only [exec, execMapStep] at h
    split at h
    · exact .inl (fail _ (by decide) h)
    exact .inr (r0 _ h)
  | mapCenter =>
    simp only [exec, execMapCenter] at h
    split at h
    · exact .inl (fail _ (by decide) h)
    split at h
    · exact .inl (fail _ (by decide) h)
    exact .inr (r0 _ h)
  | mapOrigin =>
    simp only [exec, execMapOrigin] at h
    split at h
    · exact .inl (fail _ (by decide) h)
    exact chk _ h
  | clamp =>
    simp only [exec, execClamp] at h
    split at h
    · exact .inl (fail _ (by decide) h)
    exact .inr (r0 _ h)
  | mapNeigh =>
    simp only [exec, execMapNeigh] at h
    split at h
    · exact .inl (fail _ (by decide) h)
    obtain rfl := commit_next h
    exact .inr ⟨_, _, _, _, _, rfl, fun _ => rfl, fun _ => rfl⟩
  | nnSample a => exact smp _ a h
  | blSample a => exact smp _ a h
  | nnScale a b k =>
    exact (scaleWith_next h).imp id fun ⟨_, _, _, _, _, e⟩ => ⟨_, _, _, _, _, e, nofun, nofun⟩
  | blScale a b k =>
    exact (scaleWith_next h).imp id fun ⟨_, _, _, _, _, e⟩ => ⟨_, _, _, _, _, e, nofun, nofun⟩

end Sys2Proof.Machine
end

