-- ==== Sys2Proof/Laws/Frame.lean ====
section
/-! SUPPORT. What the frame loop leaves in memory: at every sample it is given, the kernel's value on the memory it started
from (R224). -/

namespace Sys2Proof.Machine

/-- A kernel that reads only its source slot, for the channels that slot has (R83). -/
abbrev ReadsOnly (K : Kernel) (src : Slot) : Prop :=
  ∀ (rd rd' : Nat → Byte), (∀ a, src.base.toNat ≤ a → a < src.base.toNat + slotSize src → rd a = rd' a) →
    ∀ (sx sy : Word) (c : Nat), c < src.ch.toNat → K rd src sx sy c = K rd' src sx sy c

theorem readsOnly_nnValue {p : Nat} {src : Slot} (h : SoundSlot p src) : ReadsOnly nnValue src :=
  fun _ _ hr sx sy _ hc => nnValue_congr h hr sx sy hc

theorem readsOnly_blValue {p : Nat} {src : Slot} (h : SoundSlot p src) : ReadsOnly blValue src :=
  fun _ _ hr sx sy _ hc => blValue_congr h hr sx sy hc

/-- The two slots share no byte. -/
abbrev Apart (src dst : Slot) : Prop :=
  src.base.toNat + slotSize src ≤ dst.base.toNat ∨ dst.base.toNat + slotSize dst ≤ src.base.toNat

/-- A sample of the slot's raster. -/
abbrev Slot.Sample (d : Slot) (p : Nat × Nat × Nat) : Prop :=
  p.1 < d.width.toNat ∧ p.2.1 < d.height.toNat ∧ p.2.2 < d.ch.toNat

/-- The value the frame loop gives one sample. -/
def frameValue (K : Kernel) (src dst : Slot) (mode : MapMode) (rd : Nat → Byte) (p : Nat × Nat × Nat) : Byte :=
  K rd src (enc32 (srcCoord p.1 src.width.toNat dst.width.toNat mode))
    (enc32 (srcCoord p.2.1 src.height.toNat dst.height.toNat mode)) p.2.2

theorem framePixel_eq (K : Kernel) (r : Nat) (src dst : Slot) (mode : MapMode) (m : Memory) (p : Nat × Nat × Nat) :
    framePixel K r src dst mode m p =
      m.write (paddr dst p.1 p.2.1 p.2.2) (frameValue K src dst mode (byteAt r m) p) := rfl

/-- Every sample the loop is given ends with the kernel's value on the memory the loop started from, in whatever order
(R89, R224). -/
theorem frameLoop_read?_of_mem {K : Kernel} {r : Nat} {src dst : Slot} {mode : MapMode} (hK : ReadsOnly K src)
    (hch : dst.ch = src.ch) (hap : Apart src dst) {ps : List (Nat × Nat × Nat)} (hps : ∀ p ∈ ps, dst.Sample p)
    (m : Memory) {p : Nat × Nat × Nat} (hp : p ∈ ps) :
    (frameLoop K r src dst mode m ps).read? (paddr dst p.1 p.2.1 p.2.2) =
      some (frameValue K src dst mode (byteAt r m) p) := by
  induction ps generalizing m with
  | nil => cases hp
  | cons q ps ih =>
    have hps' : ∀ p ∈ ps, dst.Sample p := fun x hx => hps x (List.mem_cons_of_mem _ hx)
    have hq := hps q List.mem_cons_self
    rw [frameLoop_cons]
    by_cases hmem : p ∈ ps
    · rw [ih hps' _ hmem]
      refine congrArg some (hK _ _ (fun a h1 h2 => ?_) _ _ _ (hch ▸ (hps' p hmem).2.2))
      rw [framePixel_eq, byteAt_write, if_neg]
      rintro rfl
      have h3 := base_le_paddr dst q.1 q.2.1 q.2.2
      have h4 := paddr_lt hq.1 hq.2.1 hq.2.2
      rcases hap with h | h <;> omega
    · obtain rfl : p = q := (List.mem_cons.1 hp).resolve_right hmem
      rw [frameLoop_read?_of_ne, framePixel_eq, read?_write, if_pos rfl]
      intro x hx e
      have hx' := hps' x hx
      obtain ⟨e1, e2, e3⟩ := paddr_inj hx'.1 hx'.2.2 hq.1 hq.2.2 e
      exact hmem (by rwa [show p = x from (Prod.ext e1 (Prod.ext e2 e3)).symm])

end Sys2Proof.Machine
end

