-- ==== Sys2Proof/Laws/PerInstr.lean ====
section
/-! SUPPORT. The per-instruction family EncodesLegally: the word of a well-formed command has the opcode of its row and no
reserved bit of its format set (R101 to R107). One lemma per constructor of Instr. -/

namespace Sys2Proof.Laws.EncodesLegally

/-- The opcode of a command (R106). -/
def opcode : Instr → Opcode
  | .nop => .nop
  | .bufCreate _ _ => .bufCreate
  | .bufRelease _ => .bufRelease
  | .fxToFix => .fxToFix
  | .fxToFlt => .fxToFlt
  | .fxFromInt => .fxFromInt
  | .fxAdd => .fxAdd
  | .fxSub => .fxSub
  | .fxMul => .fxMul
  | .fxDiv => .fxDiv
  | .fxInt => .fxInt
  | .fxFrac => .fxFrac
  | .mapStep => .mapStep
  | .mapCenter => .mapCenter
  | .mapOrigin => .mapOrigin
  | .clamp => .clamp
  | .mapNeigh => .mapNeigh
  | .nnSample _ => .nnSample
  | .blSample _ => .blSample
  | .nnScale _ _ _ => .nnScale
  | .blScale _ _ _ => .blScale

/-- The encoded word is legal and carries its command's opcode. -/
def Statement (i : Instr) : Prop :=
  i.WellFormed = true →
    opcodeOf (opField (encode i)) = some (opcode i) ∧ encode i &&& (opcode i).format.reservedMask = 0#32

theorem nop : Statement .nop := fun _ => by decide
theorem bufCreate (ha : Handle) (ch : Nat) : Statement (.bufCreate ha ch) := fun h => by
  have hc : ch < 4 := by simpa [Instr.WellFormed] using h
  clear h
  revert ha
  interval_cases ch <;> decide
theorem bufRelease (ha : Handle) : Statement (.bufRelease ha) := fun _ => by revert ha; decide
theorem fxToFix : Statement .fxToFix := fun _ => by decide
theorem fxToFlt : Statement .fxToFlt := fun _ => by decide
theorem fxFromInt : Statement .fxFromInt := fun _ => by decide
theorem fxAdd : Statement .fxAdd := fun _ => by decide
theorem fxSub : Statement .fxSub := fun _ => by decide
theorem fxMul : Statement .fxMul := fun _ => by decide
theorem fxDiv : Statement .fxDiv := fun _ => by decide
theorem fxInt : Statement .fxInt := fun _ => by decide
theorem fxFrac : Statement .fxFrac := fun _ => by decide
theorem mapStep : Statement .mapStep := fun _ => by decide
theorem mapCenter : Statement .mapCenter := fun _ => by decide
theorem mapOrigin : Statement .mapOrigin := fun _ => by decide
theorem clamp : Statement .clamp := fun _ => by decide
theorem mapNeigh : Statement .mapNeigh := fun _ => by decide
theorem nnSample (ha : Handle) : Statement (.nnSample ha) := fun _ => by revert ha; decide
theorem blSample (ha : Handle) : Statement (.blSample ha) := fun _ => by revert ha; decide
theorem nnScale (ha hb : Handle) (sk : ScaleKind) : Statement (.nnScale ha hb sk) := fun _ => by
  revert ha hb; cases sk <;> decide
theorem blScale (ha hb : Handle) (sk : ScaleKind) : Statement (.blScale ha hb sk) := fun _ => by
  revert ha hb; cases sk <;> decide

end Sys2Proof.Laws.EncodesLegally
end

