-- ==== Sys2Proof/Tests/Slice0.lean ====
section
/-! SUPPORT. Our own tests: ill-formed terms, words written out from the spec's encodings, the spec's vectors, and for each
statement with hypotheses a concrete state and operands that meet them. "V-..." names a vector of spec/95_test_vectors.md. -/

namespace Sys2Proof.Tests

open Sys2Proof.Machine

/-! ### Well-formedness and decoding -/

/-- The one check refuses: a channel field of 4 does not fit two bits (R101). -/
theorem test_channel_field_ill_formed : (Instr.bufCreate 0 4).WellFormed = false := by decide

/-- A channel field of 2 is well formed and decodes; execution rejects it (R104). -/
theorem test_channel_field_two : (Instr.bufCreate 0 2).WellFormed = true ∧ decode 0x00020001#32 = .ok (.bufCreate 0 2) := by
  decide

/-- Format N: OP alone, written out bit by bit (R102, R106). -/
theorem test_decode_format_n :
    decode 0b00000000000000000000000000000000#32 = .ok .nop ∧ decode 0b00000000000000000000000000010000#32 = .ok .fxToFix ∧
      decode 0b00000000000000000000000000010001#32 = .ok .fxToFlt ∧
      decode 0b00000000000000000000000000010010#32 = .ok .fxFromInt ∧
      decode 0b00000000000000000000000000010011#32 = .ok .fxAdd ∧
      decode 0b00000000000000000000000000010100#32 = .ok .fxSub ∧
      decode 0b00000000000000000000000000010101#32 = .ok .fxMul ∧
      decode 0b00000000000000000000000000010110#32 = .ok .fxDiv ∧
      decode 0b00000000000000000000000000010111#32 = .ok .fxInt ∧
      decode 0b00000000000000000000000000011000#32 = .ok .fxFrac ∧
      decode 0b00000000000000000000000000100000#32 = .ok .mapStep ∧
      decode 0b00000000000000000000000000100001#32 = .ok .mapCenter ∧
      decode 0b00000000000000000000000000100010#32 = .ok .mapOrigin ∧
      decode 0b00000000000000000000000000100011#32 = .ok .clamp ∧
      decode 0b00000000000000000000000000100100#32 = .ok .mapNeigh := by decide

/-- Format H: HA in bits [11:8] (R103, R106). -/
theorem test_decode_format_h :
    decode 0b00000000000000000000111100000010#32 = .ok (.bufRelease 15) ∧
      decode 0b00000000000000000000000100110000#32 = .ok (.nnSample 1) ∧
      decode 0b00000000000000000000100000110001#32 = .ok (.blSample 8) := by decide

/-- Format C: HA in [11:8], CH in [17:16] (R104, R106; V-B1). -/
theorem test_decode_format_c : decode 0b00000000000000110000000100000001#32 = .ok (.bufCreate 1 3) := by decide

/-- Format S: HA in [11:8], HB in [15:12], SK in [16] (R105, R106; V-F10, V-F1). -/
theorem test_decode_format_s :
    decode 0b00000000000000010010000101000000#32 = .ok (.nnScale 1 2 .rational) ∧
      decode 0b00000000000000000010000001000001#32 = .ok (.blScale 0 2 .float) := by decide

/-- Reserved opcodes and reserved bits are refused, by name (R107; V-B2, V-K4, P5). -/
theorem test_decode_illegal :
    decode 0x00000003#32 = .error .reservedOpcode ∧ decode 0x00010002#32 = .error .reservedBits ∧
      decode 0x00010030#32 = .error .reservedBits ∧ decode 0x00001001#32 = .error .reservedBits := by decide

/-! ### Small states -/

/-- The field `f` of the next state; none where a step stops. -/
def next? {α : Type} (f : State → α) : StepOutcome → Option α
  | .next t => some (f t)
  | .fault _ => none
  | .refused _ => none

/-- A state after reset with these operands in ARG0 to ARG2 and in the latch. -/
def operands (a0 a1 a2 : Word) : State :=
  { State.reset with arg0 := a0, arg1 := a1, arg2 := a2, latch := ⟨a0, a1, a2, .center⟩ }

/-- The error code and RES0 after one step that runs the word `w` on these operands. -/
def run1 (w : Nat) (a0 a1 : Word) : Option (ErrorCode × Word) :=
  next? (fun t => (t.err, t.res0)) (step ((operands a0 a1 0#32).withFetchWord 32 w))

/-- GRAD4 of the spec's fixtures in slot 0 at base 0, with these operands. -/
def grad4 (a0 a1 a2 : Word) : State :=
  { operands a0 a1 a2 with
    slots := State.reset.slots.set 0 ⟨true, 1#2, 4#32, 4#32, 0#32⟩
    mem := [(0, 0x00#8), (1, 0x2A#8), (2, 0x55#8), (3, 0x7F#8), (4, 0x2A#8), (5, 0x55#8), (6, 0x7F#8), (7, 0xAA#8),
      (8, 0x55#8), (9, 0x7F#8), (10, 0xAA#8), (11, 0xD4#8), (12, 0x7F#8), (13, 0xAA#8), (14, 0xD4#8), (15, 0xFF#8)] }

/-- RAMP2 of the spec's fixtures in slot 0 at base 0, with these operands. -/
def ramp2 (a0 a1 a2 : Word) : State :=
  { operands a0 a1 a2 with
    slots := State.reset.slots.set 0 ⟨true, 1#2, 2#32, 1#32, 0#32⟩
    mem := [(0, 0x00#8), (1, 0xFF#8)] }

/-- One RGB pixel, the third of RGB2, in slot 1 at base 0x100. -/
def rgb1 (a0 a1 a2 : Word) : State :=
  { operands a0 a1 a2 with
    slots := State.reset.slots.set 1 ⟨true, 3#2, 1#32, 1#32, 0x100#32⟩
    mem := [(0x100, 0x5A#8), (0x101, 0x64#8), (0x102, 0x6E#8)] }

/-- The bytes of memory from `a` on, `n` of them, as far as they have been written. -/
def bytes (a n : Nat) (t : State) : List (Option Byte) := (List.range n).map fun k => t.mem.read? (a + k)

/-! ### One step of each command, on the spec's vectors -/

/-- R250: a sticky error stays, the code becomes 0. -/
theorem test_nop :
    next? (fun t => (t.err, t.errSticky, t.busy)) (exec .nop { State.reset with err := .overflow, errSticky := true }) =
      some (.none, true, false) := by decide

/-- V-B1 row 1. -/
theorem test_bufCreate :
    next? (fun t => (t.res0, t.slot 0, bytes 0x3F 3 t)) (step ((operands 4#32 4#32 0x40#32).withFetchWord 32 0x00010001)) =
      some (16#32, ⟨true, 1#2, 4#32, 4#32, 0x40#32⟩, [none, some 0#8, some 0#8]) := by decide

/-- V-B1 row 3: an overlap by one byte. -/
theorem test_bufCreate_overlap :
    next? (fun t => (t.err, t.slot 2)) (step ((grad4 1#32 1#32 0xF#32).withFetchWord 32 0x00010201)) =
      some (.allocationFailure, Slot.free) := by decide

/-- V-B2: the slot is freed, the bytes stay. -/
theorem test_bufRelease :
    next? (fun t => (t.slot 0, bytes 1 2 t)) (step ((grad4 0#32 0#32 0#32).withFetchWord 32 0x00000002)) =
      some (Slot.free, [some 0x2A#8, some 0x55#8]) := by decide

/-- V-A1: -3.14159274 is floored. -/
theorem test_fxToFix_floors : run1 0x10 0xC0490FDB#32 0#32 = some (.none, 0xFFFCDBC0#32) := by decide

/-- V-A1: 32768.0 does not fit. -/
theorem test_fxToFix_overflow : run1 0x10 0x47000000#32 0#32 = some (.overflow, 0#32) := by decide

/-- V-A2: -256 - 2^-16 rounds down, away from zero. -/
theorem test_fxToFlt_negative : run1 0x11 0xFEFFFFFF#32 0#32 = some (.none, 0xC3800001#32) := by decide

/-- V-A2: a significand that rounds up to the next power of two. -/
theorem test_fxToFlt_carry : run1 0x11 0x80000001#32 0#32 = some (.none, 0xC7000000#32) := by decide

/-- V-A3. -/
theorem test_fxFromInt : run1 0x12 0xFFFFFFFF#32 0#32 = some (.none, 0xFFFF0000#32) := by decide

theorem test_fxFromInt_overflow : run1 0x12 0x00008000#32 0#32 = some (.overflow, 0#32) := by decide

/-- V-A4. -/
theorem test_fxAdd : run1 0x13 0x00018000#32 0xFFFDC000#32 = some (.none, 0xFFFF4000#32) := by decide

theorem test_fxAdd_overflow : run1 0x13 0x80000000#32 0xFFFFFFFF#32 = some (.overflow, 0#32) := by decide

/-- V-A4. -/
theorem test_fxSub : run1 0x14 0x00018000#32 0xFFFDC000#32 = some (.none, 0x0003C000#32) := by decide

theorem test_fxSub_overflow : run1 0x14 0x00000000#32 0x80000000#32 = some (.overflow, 0#32) := by decide

/-- V-A5: the floor of a tiny negative product. -/
theorem test_fxMul_floors : run1 0x15 0x00000001#32 0xFFFFFFFF#32 = some (.none, 0xFFFFFFFF#32) := by decide

theorem test_fxMul_overflow : run1 0x15 0x80000000#32 0xFFFF0000#32 = some (.overflow, 0#32) := by decide

/-- V-A6: a tiny negative quotient goes to zero. -/
theorem test_fxDiv_truncates : run1 0x16 0xFFFFFFFF#32 0x00030000#32 = some (.none, 0#32) := by decide

theorem test_fxDiv_by_zero : run1 0x16 0x00010000#32 0#32 = some (.divByZero, 0#32) := by decide

/-- V-A7. -/
theorem test_fxInt : run1 0x17 0xFFFCA000#32 0#32 = some (.none, 0xFFFFFFFC#32) := by decide

theorem test_fxFrac : run1 0x18 0xFFFCA000#32 0#32 = some (.none, 0x0000A000#32) := by decide

/-- V-M1. -/
theorem test_mapStep : run1 0x20 5#32 3#32 = some (.none, 0x0001AAAA#32) := by decide

theorem test_mapStep_invalid : run1 0x20 32768#32 1#32 = some (.invalidParameter, 0#32) := by decide

/-- V-M2. -/
theorem test_mapCenter : run1 0x21 1#32 0x0000AAAA#32 = some (.none, 0x00007FFF#32) := by decide

theorem test_mapCenter_overflow : run1 0x21 1#32 0x7FFF0000#32 = some (.overflow, 0#32) := by decide

/-- V-M3. -/
theorem test_mapOrigin : run1 0x22 3#32 0x0000AAAA#32 = some (.none, 0x0001FFFE#32) := by decide

theorem test_mapOrigin_invalid : run1 0x22 32767#32 0x00010000#32 = some (.invalidParameter, 0#32) := by decide

/-- V-M4. -/
theorem test_clamp_low : run1 0x23 0x80000000#32 4#32 = some (.none, 0#32) := by decide

theorem test_clamp_high : run1 0x23 4#32 4#32 = some (.none, 3#32) := by decide

/-- V-M5. -/
theorem test_mapNeigh :
    next? (fun t => (t.res0, t.res1, t.res2)) (exec .mapNeigh (operands 0x00028000#32 4#32 0#32)) =
      some (2#32, 3#32, 0x8000#32) := by decide

theorem test_mapNeigh_negative :
    next? (fun t => (t.res0, t.res1, t.res2)) (exec .mapNeigh (operands 0xFFFFC000#32 4#32 0#32)) =
      some (0#32, 0#32, 0xC000#32) := by decide

/-- V-K1: x and y are not swapped, and both clamp. -/
theorem test_nnSample :
    next? State.res0 (step ((grad4 0x7FFFFFFF#32 0x80000000#32 0#32).withFetchWord 32 0x30)) = some 0x7F#32 := by decide

/-- R205: the channels of a pixel, red lowest. -/
theorem test_nnSample_rgb :
    next? State.res0 (step ((rgb1 0#32 0#32 0#32).withFetchWord 32 0x130)) = some 0x006E645A#32 := by decide

/-- V-K2. -/
theorem test_blSample :
    next? State.res0 (step ((grad4 0x0002E666#32 0x00011999#32 0#32).withFetchWord 32 0x31)) = some 0xA9#32 := by decide

theorem test_blSample_free :
    next? State.err (step ((grad4 0#32 0#32 0#32).withFetchWord 32 0x531)) = some .invalidParameter := by decide

/-- V-F4, NN, center-aligned. -/
theorem test_nnScale :
    next? (fun t => (t.res0, t.res1, t.res2, bytes 0x100 8 t))
        (step ((ramp2 2#32 1#32 0x100#32).withFetchWord 32 0x00012040)) =
      some (4#32, 2#32, 8#32, [0x00#8, 0x00#8, 0x00#8, 0xFF#8, 0x00#8, 0x00#8, 0x00#8, 0xFF#8].map some) := by decide

/-- V-F11 E14: a rational scale with denominator 0. -/
theorem test_nnScale_invalid :
    next? (fun t => (t.err, t.slot 2)) (step ((grad4 1#32 0#32 0x100#32).withFetchWord 32 0x00012040)) =
      some (.invalidParameter, Slot.free) := by decide

/-- V-F1, the golden case: GRAD4 by 0.5, center-aligned. -/
theorem test_blScale_golden :
    next? (fun t => (t.slot 2, bytes 0x100 4 t)) (step ((grad4 0x3F000000#32 0#32 0x100#32).withFetchWord 32 0x2041)) =
      some (⟨true, 1#2, 2#32, 2#32, 0x100#32⟩, [0x2A#8, 0x7F#8, 0x7F#8, 0xD4#8].map some) := by decide

/-- V-F3, the same under the origin-aligned policy. -/
theorem test_blScale_origin :
    next? (bytes 0x100 4)
        (step ({ grad4 0x3F000000#32 0#32 0x100#32 with mapMode := .origin }.withFetchWord 32 0x2041)) =
      some ([0x00#8, 0x55#8, 0x55#8, 0xAA#8].map some) := by decide

/-! ### The hypotheses of the statements can be met

`witness_<Statement>` meets the hypotheses of `Obligations.<Statement>`, at the boundary of each clause. -/

theorem witness_DecodeInvertsEncode : (Instr.bufCreate 15 3).WellFormed = true := by decide

theorem witness_EncodeInvertsDecode : decode 0x0001F141#32 = .ok (.blScale 1 15 .rational) := by decide

/-- A state in which the engine runs the word `w` and the host has one access left. -/
def busyState (w : Word) (turns : List Agent) : State :=
  { operands 1#32 2#32 3#32 with busy := true, lastCmd := w, turns := turns, hostQueue := [.read 8 4] }

theorem witness_EngineTurnExecutesTheDecodedCommand :
    (∀ ts ∈ [[], [Agent.engine, .host]], (busyState 0x13#32 ts).busy = true ∧ (busyState 0x13#32 ts).resetAsserted = false ∧
        ((busyState 0x13#32 ts).turns = [] ∨ (busyState 0x13#32 ts).turns.head? = some .engine ∨
          (busyState 0x13#32 ts).hostQueue = []) ∧ decode (busyState 0x13#32 ts).lastCmd = .ok .fxAdd) ∧
      ({ busyState 0x13#32 [.host] with hostQueue := [] } : State).hostQueue = [] := by decide

theorem witness_HostTurnPerformsTheOldestAccess :
    (busyState 0x13#32 [.host]).hostQueue = .read 8 4 :: [] ∧ (busyState 0x13#32 [.host]).busy = true ∧
      (busyState 0x13#32 [.host]).resetAsserted = false ∧ (busyState 0x13#32 [.host]).turns.head? = some .host ∧
      ({ busyState 0x13#32 [.host] with busy := false } : State).busy = false ∧ State.reset.Ended :=
  ⟨rfl, rfl, rfl, rfl, rfl, rfl, rfl⟩

theorem witness_IllegalCommandOnlyReportsItsCode :
    (∀ i, decode (busyState 0x00010002#32 []).lastCmd ≠ .ok i) ∧
      (∀ ts ∈ [[], [Agent.engine, .host]], (busyState 0x00010002#32 ts).lastCmd = 0x00010002#32 ∧
        (busyState 0x00010002#32 ts).busy = true ∧ (busyState 0x00010002#32 ts).resetAsserted = false ∧
        ((busyState 0x00010002#32 ts).turns = [] ∨ (busyState 0x00010002#32 ts).turns.head? = some .engine ∨
          (busyState 0x00010002#32 ts).hostQueue = [])) ∧
      ({ busyState 0x00010002#32 [.host] with hostQueue := [] } : State).hostQueue = [] := by
  refine ⟨fun i h => ?_, by decide, rfl⟩
  have e : decode (busyState 0x00010002#32 []).lastCmd = .error .reservedBits := by decide
  rw [e] at h
  cases h

/-- A completion with code 0 and one with a code that is not 0. -/
theorem witness_CompletionSetsStatus :
    (∃ t, exec .fxAdd (operands 1#32 2#32 0#32) = .next t ∧ t.err = .none) ∧
      ∃ t, exec .fxAdd (operands 0x7FFFFFFF#32 1#32 0#32) = .next t ∧ t.err ≠ .none :=
  ⟨⟨_, rfl, by decide⟩, ⟨_, rfl, by decide⟩⟩

theorem witness_FailedCommandChangesOnlyStatus :
    ∃ t, exec (.nnSample 5) (grad4 0#32 0#32 0#32) = .next t ∧ t.err ≠ .none := ⟨_, rfl, by decide⟩

theorem witness_CommandsRaiseOnlyTheirListedCodes :
    (∃ t, exec .mapStep (operands 0#32 1#32 0#32) = .next t ∧ t.err = .invalidParameter) ∧
      (∃ t, exec (.bufCreate 2 1) (grad4 1#32 1#32 0xF#32) = .next t ∧ t.err = .allocationFailure) ∧
      (∃ t, exec .fxDiv (operands 1#32 0#32 0#32) = .next t ∧ t.err = .divByZero) ∧
      ∃ t, exec .mapOrigin (operands 2#32 0x7FFF0000#32 0#32) = .next t ∧ t.err = .overflow :=
  ⟨⟨_, rfl, by decide⟩, ⟨_, rfl, by decide⟩, ⟨_, rfl, by decide⟩, ⟨_, rfl, by decide⟩⟩

theorem witness_CommandsLeaveTheRestUnchanged :
    ∃ t, exec (.blSample 0) (grad4 0x8000#32 0x8000#32 0#32) = .next t ∧ (∀ h k, Instr.blSample 0 ≠ .bufCreate h k) ∧
      (∀ a b k, Instr.blSample 0 ≠ .nnScale a b k) ∧ (∀ a b k, Instr.blSample 0 ≠ .blScale a b k) ∧
      ∀ h, Instr.blSample 0 ≠ .bufRelease h := ⟨_, rfl, nofun, nofun, nofun, nofun⟩

/-- A state with a live buffer that meets the invariant, a command running, and the host to move first. -/
def liveState : State := { grad4 0x3F000000#32 0#32 0x100#32 with
  busy := true, lastCmd := 0x2041#32, turns := [.host, .engine], hostQueue := [.read 8 4] }

theorem liveState_inv : liveState.Inv :=
  ⟨by decide, by decide, by decide, by decide, by decide, by decide, by decide, by decide, by decide⟩

theorem witness_EveryCommandCompletes : liveState.Inv := liveState_inv

theorem witness_RunningCommandEndsWithinItsTurns :
    liveState.Inv ∧ liveState.busy = true ∧ .resetAssert ∉ liveState.hostQueue ∧ .resetRelease ∉ liveState.hostQueue :=
  ⟨liveState_inv, rfl, by decide, by decide⟩

theorem witness_CommandsNeverSeeUnwrittenBytes : liveState.Inv := liveState_inv

theorem witness_EveryStepKeepsTheInvariant : liveState.Inv ∧ ∃ t, step liveState = .next t := ⟨liveState_inv, _, rfl⟩

theorem witness_NoStepStopsTheMachine : liveState.Inv := liveState_inv

theorem witness_ResetLineResetsTheBlock : ({ liveState with resetAsserted := true } : State).resetAsserted = true := rfl

theorem witness_RegisterReadsAnswerTheMap : liveState.resetAsserted = false := rfl

theorem witness_RegisterWritesFollowTheirFields : liveState.resetAsserted = false ∧ 0 < 4 ∧ 3 < 4 := by decide

theorem witness_CommandWriteIsAcceptedOrDropped :
    State.reset.resetAsserted = false ∧ State.reset.busy = false ∧ liveState.resetAsserted = false ∧
      liveState.busy = true := by decide

/-- The last byte, the last two and the last word of a pixel memory of 65536 bytes. -/
theorem witness_WindowReadsAreLittleEndian :
    State.reset.resetAsserted = false ∧ State.reset.busy = false ∧ State.reset.pixmemBytes ≤ 0x01000000 ∧
      0x0100FFFF = State.reset.bscBase + 0x01000000 + 65535 ∧ 65535 % 1 = 0 ∧ 65535 + 1 ≤ State.reset.pixmemBytes ∧
      0x0100FFFE = State.reset.bscBase + 0x01000000 + 65534 ∧ 65534 % 2 = 0 ∧ 65534 + 2 ≤ State.reset.pixmemBytes ∧
      0x0100FFFC = State.reset.bscBase + 0x01000000 + 65532 ∧ 65532 % 4 = 0 ∧ 65532 + 4 ≤ State.reset.pixmemBytes := by
  decide

theorem witness_WindowWritesAreLittleEndian :
    State.reset.resetAsserted = false ∧ State.reset.busy = false ∧ State.reset.pixmemBytes ≤ 0x01000000 ∧
      0x0100FFFF = State.reset.bscBase + 0x01000000 + 65535 ∧ 65535 % 1 = 0 ∧ 65535 + 1 ≤ State.reset.pixmemBytes ∧
      0x0100FFFE = State.reset.bscBase + 0x01000000 + 65534 ∧ 65534 % 2 = 0 ∧ 65534 + 2 ≤ State.reset.pixmemBytes ∧
      0x0100FFFC = State.reset.bscBase + 0x01000000 + 65532 ∧ 65532 % 4 = 0 ∧ 65532 + 4 ≤ State.reset.pixmemBytes :=
  witness_WindowReadsAreLittleEndian

theorem witness_WindowIsBlockedWhileBusy :
    liveState.resetAsserted = false ∧ liveState.busy = true ∧ liveState.pixmemBytes ≤ 0x01000000 ∧
      0x0100FFFF = liveState.bscBase + 0x01000000 + 65535 ∧ 65535 < liveState.pixmemBytes := by decide

/-- A narrow register access, an unmapped offset, a misaligned, an empty and an overlong window access, an address past
pixel memory. -/
theorem witness_RejectedAccessesChangeNothing :
    State.reset.resetAsserted = false ∧ State.reset.busy = false ∧ 0x01010000 < 0x02000000 ∧
      (0x008 < 0x01000000 ∧ 2 ≠ 4) ∧
      (0x02C ∉ [0x000, 0x004, 0x008, 0x00C, 0x010, 0x014, 0x018, 0x020, 0x024, 0x028] ∧
        ¬(0x100 ≤ 0x02C ∧ 0x02C < 0x200 ∧ 0x02C % 4 = 0)) ∧
      (0x01000002 = 0x01000000 + 2 ∧ 2 % 4 ≠ 0) ∧ (0x01000002 = 0x01000000 + 2 ∧ 0 ≠ 1 ∧ 0 ≠ 2 ∧ 0 ≠ 4) ∧
      (0x0100FFFF = 0x01000000 + 65535 ∧ State.reset.pixmemBytes < 65535 + 2) ∧
      (0x01010000 = 0x01000000 + 65536 ∧ State.reset.pixmemBytes ≤ 65536) := by decide

/-- The widest row that exists, ending at the last byte of pixel memory. -/
theorem witness_BufCreateMakesAZeroedBuffer :
    let s := operands 32767#32 1#32 32769#32
    (s.slot 3).valid = false ∧ s.latch.arg0.toInt = (32767 : Nat) ∧ s.latch.arg1.toInt = (1 : Nat) ∧
      s.latch.arg2.toNat + 32767 * 1 * 1 ≤ s.pixmemBytes ∧ Spec.NoOverlap s s.latch.arg2.toNat (32767 * 1 * 1) :=
  ⟨by decide, by decide, by decide, by decide, fun j hj => by revert j; decide⟩

/-- Each failing check alone: a live slot, a size of 0, a channel count of 2, a size of MAX_DIM + 1, a region one byte too
long, an overlap by one byte. -/
theorem witness_BufCreateReportsTheFirstFailingCheck :
    ((grad4 1#32 1#32 0x100#32).slot 0).valid = true ∧ (operands 0#32 1#32 0#32).latch.arg0.toInt ≤ 0 ∧
      (operands 1#32 0#32 0#32).latch.arg1.toInt ≤ 0 ∧ (2 ≠ 1 ∧ 2 ≠ 3) ∧
      (let s := operands 32768#32 1#32 0#32
       (s.slot 2).valid = false ∧ 0 < s.latch.arg0.toInt ∧ 0 < s.latch.arg1.toInt ∧ 32767 < s.latch.arg0.toInt) ∧
      (let s := operands 16#32 1#32 0xFFF1#32
       (s.slot 2).valid = false ∧ 0 < s.latch.arg0.toInt ∧ 0 < s.latch.arg1.toInt ∧
         s.pixmemBytes < s.latch.arg2.toNat + 16 * 1 * 1) ∧
      (let s := grad4 1#32 1#32 0xF#32
       (s.slot 2).valid = false ∧ 0 < s.latch.arg0.toInt ∧ 0 < s.latch.arg1.toInt ∧
         ∃ j, j ≠ 2 ∧ (s.slot j).valid = true ∧ 0xF < (s.slot j).base.toNat + slotSize (s.slot j) ∧
           (s.slot j).base.toNat < 0xF + 1) := by decide

theorem witness_BufReleaseFreesTheSlot :
    ((grad4 0#32 0#32 0#32).slot 0).valid = true ∧ ((grad4 0#32 0#32 0#32).slot 15).valid = false := by decide

/-- binary32 operands: a NaN, an infinity, -32768.0 (the lowest that fits) and 32768.0 (the first that does not). -/
theorem witness_FxToFixFloorsTheFloat :
    F32Nan 0x7F800001#32 ∧ F32Inf 0xFF800000#32 ∧
      (¬F32Nan 0xC7000000#32 ∧ ¬F32Inf 0xC7000000#32 ∧ ⌊Spec.f32Value 0xC7000000#32 * 65536⌋ = -2147483648) ∧
      (¬F32Nan 0x47000000#32 ∧ ¬F32Inf 0x47000000#32 ∧ ⌊Spec.f32Value 0x47000000#32 * 65536⌋ = 2147483648) := by
  have e1 : f32Exponent 0xC7000000#32 = 142 := by decide
  have f1 : f32Fraction 0xC7000000#32 = 0 := by decide
  have s1 : (0xC7000000#32).getLsbD 31 = true := by decide
  have e2 : f32Exponent 0x47000000#32 = 142 := by decide
  have f2 : f32Fraction 0x47000000#32 = 0 := by decide
  have s2 : (0x47000000#32).getLsbD 31 = false := by decide
  refine ⟨by decide, by decide, ⟨by decide, by decide, ?_⟩, ⟨by decide, by decide, ?_⟩⟩ <;>
    rw [Int.floor_eq_iff] <;> simp only [Spec.f32Value, e1, f1, s1, e2, f2, s2] <;> norm_num

/-- Zero, a number that is not zero, and a float below it. -/
theorem witness_FxToFltIsTheLargestFloatNotAbove :
    (operands 0#32 0#32 0#32).latch.arg0 = 0#32 ∧ (operands 1#32 0#32 0#32).latch.arg0 ≠ 0#32 ∧
      f32Exponent 0#32 ≠ 255 ∧ Spec.f32Value 0#32 ≤ ((operands 1#32 0#32 0#32).latch.arg0.toInt : ℚ) / 65536 := by
  have e : f32Exponent 0#32 = 0 := by decide
  have f : f32Fraction 0#32 = 0 := by decide
  have o : (operands 1#32 0#32 0#32).latch.arg0.toInt = 1 := by decide
  refine ⟨by decide, by decide, by decide, ?_⟩
  simp only [Spec.f32Value, e, f, o]
  norm_num

theorem witness_FloatRoundTripNeverRises :
    ∃ t, exec .fxToFlt (operands 0x00FFFFFF#32 0#32 0#32) = .next t ∧
      -16777216 < (operands 0x00FFFFFF#32 0#32 0#32).latch.arg0.toInt ∧
      (operands 0x00FFFFFF#32 0#32 0#32).latch.arg0.toInt < 16777216 := ⟨_, rfl, by decide, by decide⟩

theorem witness_FxFromIntScalesBy65536 :
    (operands 0x7FFF#32 0#32 0#32).latch.arg0.toInt = 32767 ∧ (operands 0xFFFF8000#32 0#32 0#32).latch.arg0.toInt = -32768 ∧
      (operands 0x8000#32 0#32 0#32).latch.arg0.toInt = 32768 := by decide

theorem witness_FxAddIsExactOrOverflows :
    let r := fun s : State => s.latch.arg0.toInt + s.latch.arg1.toInt
    r (operands 0x7FFFFFFE#32 1#32 0#32) = 2147483647 ∧ r (operands 0x7FFFFFFF#32 1#32 0#32) = 2147483648 := by decide

theorem witness_FxSubIsExactOrOverflows :
    let r := fun s : State => s.latch.arg0.toInt - s.latch.arg1.toInt
    r (operands 0x80000001#32 1#32 0#32) = -2147483648 ∧ r (operands 0x80000000#32 1#32 0#32) = -2147483649 := by decide

theorem witness_FxMulFloorsTheProduct :
    let r := fun s : State => ⌊(s.latch.arg0.toInt * s.latch.arg1.toInt : ℚ) / 65536⌋
    r (operands 0x80000000#32 0x00010000#32 0#32) = -2147483648 ∧
      r (operands 0x80000000#32 0xFFFF0000#32 0#32) = 2147483648 := by
  have a : (operands 0x80000000#32 0x00010000#32 0#32).latch.arg0.toInt = -2147483648 := by decide
  have b : (operands 0x80000000#32 0x00010000#32 0#32).latch.arg1.toInt = 65536 := by decide
  have c : (operands 0x80000000#32 0xFFFF0000#32 0#32).latch.arg0.toInt = -2147483648 := by decide
  have d : (operands 0x80000000#32 0xFFFF0000#32 0#32).latch.arg1.toInt = -65536 := by decide
  constructor <;> rw [Int.floor_eq_iff] <;> simp only [a, b, c, d] <;> norm_num

/-- A zero divisor, a quotient of -2^31 and one of 2^31. -/
theorem witness_FxDivTruncatesTheQuotient :
    let q := fun s : State => (s.latch.arg0.toInt * 65536 : ℚ) / s.latch.arg1.toInt
    (operands 1#32 0#32 0#32).latch.arg1 = 0#32 ∧
      ((operands 0x80000000#32 0x00010000#32 0#32).latch.arg1 ≠ 0#32 ∧
        q (operands 0x80000000#32 0x00010000#32 0#32) = -2147483648) ∧
      ((operands 0x80000000#32 0xFFFF0000#32 0#32).latch.arg1 ≠ 0#32 ∧
        q (operands 0x80000000#32 0xFFFF0000#32 0#32) = 2147483648) := by
  have a : (operands 0x80000000#32 0x00010000#32 0#32).latch.arg0.toInt = -2147483648 := by decide
  have b : (operands 0x80000000#32 0x00010000#32 0#32).latch.arg1.toInt = 65536 := by decide
  have c : (operands 0x80000000#32 0xFFFF0000#32 0#32).latch.arg0.toInt = -2147483648 := by decide
  have d : (operands 0x80000000#32 0xFFFF0000#32 0#32).latch.arg1.toInt = -65536 := by decide
  refine ⟨by decide, ⟨by decide, ?_⟩, ⟨by decide, ?_⟩⟩ <;> simp only [a, b, c, d] <;> norm_num

theorem witness_MapStepIsTheFlooredRatio :
    ((operands 32767#32 1#32 0#32).latch.arg0.toInt = 32767 ∧ (operands 32767#32 1#32 0#32).latch.arg1.toInt = 1) ∧
      (operands 32768#32 1#32 0#32).latch.arg0.toInt = 32768 ∧ (operands 1#32 0#32 0#32).latch.arg1.toInt = 0 := by
  decide

/-- The largest step at coordinate 0 fits, at coordinate 1 the product leaves INT32; a coordinate of MAX_DIM and a step of 0
are rejected. -/
theorem witness_MapCenterFollowsItsFormula :
    let m := fun s : State => ⌊((s.latch.arg0.toInt * 65536 + 32768) * s.latch.arg1.toInt : ℚ) / 65536⌋
    ((operands 0#32 0x7FFFFFFF#32 0#32).latch.arg0.toInt = 0 ∧ m (operands 0#32 0x7FFFFFFF#32 0#32) = 1073741823) ∧
      ((operands 1#32 0x7FFFFFFF#32 0#32).latch.arg0.toInt = 1 ∧ m (operands 1#32 0x7FFFFFFF#32 0#32) = 3221225470) ∧
      (operands 32767#32 1#32 0#32).latch.arg0.toInt = 32767 ∧ (operands 0#32 0#32 0#32).latch.arg1.toInt = 0 := by
  have a : (operands 0#32 0x7FFFFFFF#32 0#32).latch.arg0.toInt = 0 := by decide
  have b : (operands 0#32 0x7FFFFFFF#32 0#32).latch.arg1.toInt = 2147483647 := by decide
  have c : (operands 1#32 0x7FFFFFFF#32 0#32).latch.arg0.toInt = 1 := by decide
  have d : (operands 1#32 0x7FFFFFFF#32 0#32).latch.arg1.toInt = 2147483647 := by decide
  refine ⟨⟨a, ?_⟩, ⟨c, ?_⟩, by decide, by decide⟩ <;>
    rw [Int.floor_eq_iff] <;> simp only [a, b, c, d] <;> norm_num

theorem witness_MapOriginIsTheExactProduct :
    let o := fun s : State => s.latch.arg0.toInt
    let p := fun s : State => s.latch.arg0.toInt * s.latch.arg1.toInt
    (o (operands 1#32 0x7FFFFFFF#32 0#32) = 1 ∧ p (operands 1#32 0x7FFFFFFF#32 0#32) = 2147483647) ∧
      (o (operands 2#32 0x40000000#32 0#32) = 2 ∧ p (operands 2#32 0x40000000#32 0#32) = 2147483648) ∧
      o (operands 32767#32 1#32 0#32) = 32767 := by decide

theorem witness_OriginCoordinatesAccumulate :
    (operands 32765#32 0x10000#32 0#32).latch.arg0.toInt + 1 = 32766 ∧
      (operands 32765#32 0x10000#32 0#32).latch.arg1.toInt = 65536 ∧ (32765 + 1) * 65536 ≤ 2147483647 := by decide

theorem witness_ClampKeepsTheIndexInside :
    (operands 4#32 1#32 0#32).latch.arg1.toInt = 1 ∧ (operands 4#32 32767#32 0#32).latch.arg1.toInt = 32767 ∧
      (operands 4#32 32768#32 0#32).latch.arg1.toInt = 32768 := by decide

theorem witness_MapNeighSplitsTheCoordinate :
    (operands 0xFFFFC000#32 1#32 0#32).latch.arg1.toInt = 1 ∧ (operands 0xFFFFC000#32 0#32 0#32).latch.arg1.toInt = 0 := by
  decide

theorem witness_FrameCoordinatesStayInRange : 1 ≤ 32767 ∧ 32767 ≤ 32767 ∧ 1 ≤ 1 ∧ 1 ≤ 32767 ∧ 0 < 1 := by decide

theorem witness_NnSampleAnswersTheNearestPixel :
    let s := grad4 0x7FFFFFFF#32 0x80000000#32 0#32
    (s.slot 0).valid = true ∧ SoundSlot s.pixmemBytes (s.slot 0) ∧ (s.slot 15).valid = false := by decide

theorem witness_BlSampleAnswersTheBlend :
    let s := grad4 0x7FFFFFFF#32 0x80000000#32 0#32
    (s.slot 0).valid = true ∧ SoundSlot s.pixmemBytes (s.slot 0) ∧ (s.slot 15).valid = false := by decide

/-- 2 over 1 as a rational scale. -/
theorem isScale_two : Spec.IsScale .rational 2#32 1#32 2 := by
  have a : (2#32 : Word).toInt = 2 := by decide
  have b : (1#32 : Word).toInt = 1 := by decide
  refine ⟨by decide, by decide, ?_⟩
  rw [a, b]
  norm_num

/-- A live slot whose second row lies past the end of pixel memory. -/
theorem witness_UnsoundSourceSlotFaults :
    let s := { operands 2#32 1#32 0#32 with slots := State.reset.slots.set 0 ⟨true, 1#2, 1#32, 2#32, 65535#32⟩ }
    (s.slot 0).valid = true ∧ ¬SoundSlot s.pixmemBytes (s.slot 0) ∧ (1 : Handle) ≠ 0 ∧ (s.slot 1).valid = false ∧
      ∃ q, Spec.IsScale .rational s.latch.arg0 s.latch.arg1 q :=
  ⟨by decide, by decide, by decide, by decide, 2, isScale_two⟩

theorem witness_BilinearSumStaysBetweenItsNeighbours : 65535 < 65536 ∧ 0 < 65536 := by decide

theorem outDim_two : Spec.outDim 2 2 = 4 ∧ Spec.outDim 1 2 = 2 := by
  have a : ⌊((2 : ℕ) * 2 : ℚ)⌋ = 4 := by rw [Int.floor_eq_iff]; norm_num
  have b : ⌊((1 : ℕ) * 2 : ℚ)⌋ = 2 := by rw [Int.floor_eq_iff]; norm_num
  unfold Spec.outDim
  rw [a, b]
  decide

/-- RAMP2 doubled into slot 2, ending at the last byte of pixel memory. -/
theorem witness_NnScaleResizesByNearestNeighbour :
    let s := ramp2 2#32 1#32 65528#32
    (s.slot 0).valid = true ∧ SoundSlot s.pixmemBytes (s.slot 0) ∧ (2 : Handle) ≠ 0 ∧ (s.slot 2).valid = false ∧
      Spec.IsScale .rational s.latch.arg0 s.latch.arg1 2 ∧ Spec.outDim (s.slot 0).width.toNat 2 ≤ 32767 ∧
      Spec.outDim (s.slot 0).height.toNat 2 ≤ 32767 ∧
      s.latch.arg2.toNat + Spec.outDim (s.slot 0).width.toNat 2 * Spec.outDim (s.slot 0).height.toNat 2 *
        (s.slot 0).ch.toNat ≤ s.pixmemBytes ∧
      Spec.NoOverlap s s.latch.arg2.toNat (Spec.outDim (s.slot 0).width.toNat 2 *
        Spec.outDim (s.slot 0).height.toNat 2 * (s.slot 0).ch.toNat) := by
  intro s
  have ew : (s.slot 0).width.toNat = 2 := by decide
  have eh : (s.slot 0).height.toNat = 1 := by decide
  have ec : (s.slot 0).ch.toNat = 1 := by decide
  rw [ew, eh, ec, outDim_two.1, outDim_two.2]
  exact ⟨by decide, by decide, by decide, by decide, isScale_two, by decide, by decide, by decide,
    fun j hj => by revert j; decide⟩

theorem witness_BlScaleResizesByBilinearBlend :
    let s := ramp2 2#32 1#32 65528#32
    (s.slot 0).valid = true ∧ SoundSlot s.pixmemBytes (s.slot 0) ∧ (2 : Handle) ≠ 0 ∧ (s.slot 2).valid = false ∧
      Spec.IsScale .rational s.latch.arg0 s.latch.arg1 2 ∧ Spec.outDim (s.slot 0).width.toNat 2 ≤ 32767 ∧
      Spec.outDim (s.slot 0).height.toNat 2 ≤ 32767 ∧
      s.latch.arg2.toNat + Spec.outDim (s.slot 0).width.toNat 2 * Spec.outDim (s.slot 0).height.toNat 2 *
        (s.slot 0).ch.toNat ≤ s.pixmemBytes ∧
      Spec.NoOverlap s s.latch.arg2.toNat (Spec.outDim (s.slot 0).width.toNat 2 *
        Spec.outDim (s.slot 0).height.toNat 2 * (s.slot 0).ch.toNat) :=
  witness_NnScaleResizesByNearestNeighbour

/-- A live source of one column and two rows, or two columns and one row, with the rational scale `n / 1`. -/
def tinySource (w h n : Word) : State :=
  { operands n 1#32 0x100#32 with slots := State.reset.slots.set 0 ⟨true, 1#2, w, h, 0#32⟩ }

/-- A scale of 16384 makes 2 pixels 32768, one more than MAX_DIM. -/
theorem outDim_16384 : Spec.outDim 2 16384 = 32768 ∧ Spec.outDim 1 16384 = 16384 := by
  have a : ⌊((2 : ℕ) * 16384 : ℚ)⌋ = 32768 := by rw [Int.floor_eq_iff]; norm_num
  have b : ⌊((1 : ℕ) * 16384 : ℚ)⌋ = 16384 := by rw [Int.floor_eq_iff]; norm_num
  unfold Spec.outDim
  rw [a, b]
  decide

/-- The size clauses of ScaleReportsTheFirstFailingCheck: an output one pixel too wide, and one a row too high. -/
theorem witness_ScaleReportsTooLargeOutputs :
    Spec.IsScale .rational 16384#32 1#32 16384 ∧
      (let s := tinySource 2#32 1#32 16384#32
       (s.slot 0).valid = true ∧ SoundSlot s.pixmemBytes (s.slot 0) ∧ (2 : Handle) ≠ 0 ∧ (s.slot 2).valid = false ∧
         s.latch.arg0 = 16384#32 ∧ s.latch.arg1 = 1#32 ∧ 32767 < Spec.outDim (s.slot 0).width.toNat 16384 ∧
         ¬32767 < Spec.outDim (s.slot 0).height.toNat 16384) ∧
      (let s := tinySource 1#32 2#32 16384#32
       (s.slot 0).valid = true ∧ SoundSlot s.pixmemBytes (s.slot 0) ∧ (2 : Handle) ≠ 0 ∧ (s.slot 2).valid = false ∧
         s.latch.arg0 = 16384#32 ∧ s.latch.arg1 = 1#32 ∧ ¬32767 < Spec.outDim (s.slot 0).width.toNat 16384 ∧
         32767 < Spec.outDim (s.slot 0).height.toNat 16384) := by
  have a : (16384#32 : Word).toInt = 16384 := by decide
  have b : (1#32 : Word).toInt = 1 := by decide
  refine ⟨⟨by decide, by decide, by rw [a, b]; norm_num⟩,
    ⟨by decide, by decide, by decide, by decide, rfl, rfl, ?_, ?_⟩,
    ⟨by decide, by decide, by decide, by decide, rfl, rfl, ?_, ?_⟩⟩
  · exact (congrArg (32767 < ·) outDim_16384.1).mpr (by decide)
  · exact (congrArg (¬32767 < ·) outDim_16384.2).mpr (by decide)
  · exact (congrArg (¬32767 < ·) outDim_16384.2).mpr (by decide)
  · exact (congrArg (32767 < ·) outDim_16384.1).mpr (by decide)

/-- Each failing check alone: a free source, the destination the source, a live destination, a scale of 0/1; then an output
one byte too long and one that overlaps the source by a byte. -/
theorem witness_ScaleReportsTheFirstFailingCheck :
    ((ramp2 2#32 1#32 0x100#32).slot 5).valid = false ∧ ((ramp2 2#32 1#32 0x100#32).slot 0).valid = true ∧
      (∀ q, ¬Spec.IsScale .rational 0#32 1#32 q) ∧
      (∀ b : Word,
        let s := ramp2 2#32 1#32 b
        (s.slot 0).valid = true ∧ SoundSlot s.pixmemBytes (s.slot 0) ∧ (2 : Handle) ≠ 0 ∧ (s.slot 2).valid = false ∧
          s.latch.arg0 = 2#32 ∧ s.latch.arg1 = 1#32) ∧
      Spec.IsScale .rational 2#32 1#32 2 ∧
      (ramp2 2#32 1#32 65529#32).pixmemBytes < 65529 + 4 * 2 * 1 ∧ ¬Spec.NoOverlap (ramp2 2#32 1#32 1#32) 1 (4 * 2 * 1) := by
  refine ⟨by decide, by decide, fun q h => ?_, fun b => ?_, isScale_two, by decide, fun h => ?_⟩
  · exact absurd h.1 (by decide)
  · have h : SoundSlot 65536 ⟨true, 1#2, 2#32, 1#32, 0#32⟩ := by decide
    exact ⟨rfl, h, by decide, rfl, rfl, rfl⟩
  · exact absurd (h 0 (by decide)) (by decide)

theorem witness_ScaleByOneCopiesTheSource :
    Spec.IsScale .rational (ramp2 7#32 7#32 0x100#32).latch.arg0 (ramp2 7#32 7#32 0x100#32).latch.arg1 1 ∧
      (∃ t, exec (.blScale 0 2 .rational) (ramp2 7#32 7#32 0x100#32) = .next t ∧ t.err = .none) ∧
      1 < slotSize ((ramp2 7#32 7#32 0x100#32).slot 0) := by
  refine ⟨⟨by decide, by decide, ?_⟩, ⟨_, rfl, by decide⟩, by decide⟩
  have a : (ramp2 7#32 7#32 0x100#32).latch.arg0.toInt = 7 := by decide
  have b : (ramp2 7#32 7#32 0x100#32).latch.arg1.toInt = 7 := by decide
  rw [a, b]
  norm_num

/-- Two rows of two samples, taken in the reverse order; the destination right after the source. -/
theorem witness_FrameOrderIsNotObservable :
    let src : Slot := ⟨true, 1#2, 1#32, 1#32, 0#32⟩
    let dst : Slot := ⟨true, 1#2, 2#32, 2#32, 1#32⟩
    SoundSlot 65536 src ∧ dst.ch = src.ch ∧ src.base.toNat + slotSize src ≤ dst.base.toNat ∧
      (rowMajor 2 2 1).reverse.Perm (rowMajor dst.width.toNat dst.height.toNat dst.ch.toNat) :=
  ⟨by decide, by decide, by decide, List.reverse_perm _⟩

theorem witness_BilinearScaleKeepsRampsMonotone :
    let s := ramp2 2#32 1#32 0x100#32
    let g : Nat → Byte := fun x => if x = 0 then 0x00#8 else 0xFF#8
    (s.slot 0).ch = 1#2 ∧
      (∀ x y, x < (s.slot 0).width.toNat → y < (s.slot 0).height.toNat →
        s.byte ((s.slot 0).base.toNat + y * (s.slot 0).width.toNat + x) = g x) ∧
      (∀ x, x + 1 < (s.slot 0).width.toNat → (g x).toNat ≤ (g (x + 1)).toNat) ∧
      ∃ t, exec (.blScale 0 2 .rational) s = .next t ∧ t.err = .none ∧ 2 + 1 < (t.slot 2).width.toNat ∧
        1 < (t.slot 2).height.toNat := by
  refine ⟨by decide, fun x y hx hy => ?_, fun x hx => ?_, _, rfl, by decide, by decide, by decide⟩
  · have h : ∀ x < 2, ∀ y < 1, (ramp2 2#32 1#32 0x100#32).byte (0 + y * 2 + x) = if x = 0 then 0x00#8 else 0xFF#8 := by
      decide
    exact h x hx y hy
  · have h : x = 0 := by
      have : x + 1 < 2 := hx
      omega
    subst h
    decide

end Sys2Proof.Tests
end

section
/-! PROOFS. The invariant of the machine (R38, R40, R44): one rule per operation on the state, then the commands, the
host's accesses and every step. -/

namespace Sys2Proof.Machine

/-! ### One rule per update of the state -/

/-- The invariant speaks of PIXMEM_BYTES, the slots, pixel memory and the reset line while a command runs: an update of
anything else keeps it. -/
theorem State.Inv.of_frame {s t : State} (hs : s.Inv) (hp : t.pixmemBytes = s.pixmemBytes) (hl : t.slots = s.slots)
    (hm : t.mem = s.mem) (hr : t.resetAsserted = true → t.busy = false) : t.Inv := by
  have hslot : ∀ h, t.slot h = s.slot h := fun h => congrArg (Vector.get · h) hl
  exact
    { pixmem_pos := by simpa only [hp] using hs.pixmem_pos
      pixmem_le := by simpa only [hp] using hs.pixmem_le
      mem_wf := by simpa only [hm] using hs.mem_wf
      mem_inside := by simpa only [hm, hp] using hs.mem_inside
      slot_sound := by simpa only [hslot, hp] using hs.slot_sound
      slot_free := by simpa only [hslot] using hs.slot_free
      slots_disjoint := by simpa only [hslot] using hs.slots_disjoint
      slots_written := by simpa only [hslot, hm] using hs.slots_written
      reset_idle := hr }

/-- A machine with no live slot, nothing in pixel memory and no command running meets the invariant (R44). -/
theorem State.Inv.of_cleared {s : State} (h1 : 1 ≤ s.pixmemBytes) (h2 : s.pixmemBytes ≤ Config.pixmemMax)
    (hm : s.mem = []) (hl : ∀ h, s.slot h = Slot.free) (hb : s.busy = false) : s.Inv := by
  have hv : ∀ h, (s.slot h).valid ≠ true := fun h => by simp [hl h, Slot.free]
  exact
    { pixmem_pos := h1
      pixmem_le := h2
      mem_wf := by simp [hm]
      mem_inside := by simp [hm]
      slot_sound := fun h hh => absurd hh (hv h)
      slot_free := fun h _ => hl h
      slots_disjoint := fun h _ _ hh => absurd hh (hv h)
      slots_written := fun h hh => absurd hh (hv h)
      reset_idle := fun _ => hb }

/-- New pixel memory keeps the invariant where it is canonical, inside its bounds, and lists every byte the old one
listed. -/
theorem State.Inv.setMem {s : State} (hs : s.Inv) {m : Memory} (hwf : m.wf) (hin : ∀ p ∈ m, p.1 < s.pixmemBytes)
    (hkeep : ∀ a, (s.mem.read? a).isSome → (m.read? a).isSome) : (setMem s m).Inv :=
  { hs with
    mem_wf := hwf
    mem_inside := hin
    slots_written := fun h hv n hn => hkeep _ (hs.slots_written h hv n hn) }

/-- A new descriptor keeps the invariant where it is all zero if free, and if live is sound, apart from the other live
slots, and written throughout. -/
theorem State.Inv.setSlot {s : State} (hs : s.Inv) {h : Handle} {d : Slot} (hfree : d.valid = false → d = Slot.free)
    (hsound : d.valid = true → SoundSlot s.pixmemBytes d)
    (hapart : d.valid = true → ∀ j, (s.slot j).valid = true → Apart (s.slot j) d)
    (hwritten : d.valid = true → ∀ n, n < slotSize d → (s.mem.read? (d.base.toNat + n)).isSome) :
    (setSlot s h d).Inv := by
  have hslot : ∀ j, (Machine.setSlot s h d).slot j = if j = h then d else s.slot j := fun j => by
    split
    · next e => rw [e, setSlot_slot_self]
    · next e => exact setSlot_slot_ne s d e
  refine { hs with slot_sound := fun j => ?_, slot_free := fun j => ?_, slots_disjoint := fun j k hjk => ?_,
                   slots_written := fun j => ?_ }
  · rw [hslot]
    split
    · exact hsound
    · exact hs.slot_sound j
  · rw [hslot]
    split
    · exact hfree
    · exact hs.slot_free j
  · rw [hslot, hslot]
    split
    · next ej =>
      rw [if_neg fun ek => hjk (ej.trans ek.symm)]
      exact fun hd hk => (hapart hd k hk).symm
    · split
      · exact fun hj hd => hapart hd j hj
      · exact hs.slots_disjoint j k hjk
  · rw [hslot]
    split
    · exact hwritten
    · exact hs.slots_written j

/-- Freeing a slot keeps the invariant (R132). -/
theorem State.Inv.freeSlot {s : State} (hs : s.Inv) (h : Handle) : (Machine.setSlot s h Slot.free).Inv :=
  hs.setSlot (fun _ => rfl) nofun nofun nofun

/-! ### Allocation and the frame loop (R131, R223, R224) -/

/-- The descriptor that allocation writes. -/
abbrev newSlot (w ht k b : Nat) : Slot :=
  ⟨true, BitVec.ofNat 2 k, BitVec.ofNat 32 w, BitVec.ofNat 32 ht, BitVec.ofNat 32 b⟩

/-- The descriptor of an allocation that passes its checks holds the numbers it was made from, and is sound (R40). -/
theorem newSlot_sound {p w ht k b : Nat} (hp : p ≤ Config.pixmemMax) (hw : 1 ≤ w ∧ w ≤ Config.maxDim)
    (hht : 1 ≤ ht ∧ ht ≤ Config.maxDim) (hk : k = 1 ∨ k = 3) (hb : b + w * ht * k ≤ p) :
    (newSlot w ht k b).base.toNat = b ∧ slotSize (newSlot w ht k b) = w * ht * k ∧ SoundSlot p (newSlot w ht k b) := by
  unfold Config.pixmemMax at hp
  unfold Config.maxDim at hw hht
  have ew : (BitVec.ofNat 32 w).toNat = w := u32_ofNat (by omega)
  have eht : (BitVec.ofNat 32 ht).toNat = ht := u32_ofNat (by omega)
  have eb : (BitVec.ofNat 32 b).toNat = b := u32_ofNat (by omega)
  have ek : (BitVec.ofNat 2 k).toNat = k := by rcases hk with rfl | rfl <;> rfl
  have esize : slotSize (newSlot w ht k b) = w * ht * k := by simp only [slotSize, ew, eht, ek]
  have ech : BitVec.ofNat 2 k = 1#2 ∨ BitVec.ofNat 2 k = 3#2 := hk.imp (congrArg _) (congrArg _)
  refine ⟨eb, esize, ech, ?_⟩
  simp only [esize, ew, eht, eb, Config.maxDim]
  exact ⟨hw.1, hw.2, hht.1, hht.2, hb⟩

/-- A zero fill inside pixel memory keeps the invariant. -/
theorem State.Inv.zeroFill {s : State} (hs : s.Inv) {b n : Nat} (h : b + n ≤ s.pixmemBytes) :
    (Machine.setMem s (s.mem.zeroFill b n)).Inv := by
  refine hs.setMem (zeroFill_wf hs.mem_wf b n) (fun p hp => ?_) fun a ha => ?_
  · rcases mem_zeroFill hp with hp | hp
    · omega
    · exact hs.mem_inside p hp
  · rw [read?_zeroFill]
    split
    · rfl
    · exact ha

/-- A successful allocation of a raster with pixels keeps the invariant, and its slot is live (R131, R223). -/
theorem State.Inv.allocate {s t : State} (hs : s.Inv) {h : Handle} {w ht k b : Nat} (hw : 1 ≤ w) (hht : 1 ≤ ht)
    (hk : k = 1 ∨ k = 3) (ha : allocate s h w ht k b = some t) : t.Inv ∧ (t.slot h).valid = true := by
  obtain ⟨⟨hw', hht'⟩, hfit, hover, rfl⟩ := allocate_eq_some.1 ha
  obtain ⟨hbase, hsize, hsound⟩ := newSlot_sound hs.pixmem_le ⟨hw, hw'⟩ ⟨hht, hht'⟩ hk hfit
  refine ⟨(hs.zeroFill hfit).setSlot nofun (fun _ => hsound) (fun _ j hj => ?_) fun _ n hn => ?_, by simp⟩
  · rw [Apart, hbase, hsize]
    exact not_overlapsLive.1 hover j hj
  · rw [hsize] at hn
    rw [hbase, setMem_mem, read?_zeroFill, if_pos (by omega)]
    rfl

/-- The frame loop on a live destination keeps the invariant: it writes samples of that slot only (R224). -/
theorem State.Inv.frame {s : State} (hs : s.Inv) (K : Kernel) (src : Handle) {dst : Handle}
    (hd : (s.slot dst).valid = true) : (frame K s src dst).Inv := by
  refine hs.setMem (frameLoop_wf _ _ _ _ _ hs.mem_wf _) (fun q hq => ?_) fun _ => frameLoop_isSome _
  rcases mem_frameLoop hq with ⟨⟨x, y, c⟩, hp, e⟩ | hq
  · obtain ⟨hx, hy, hc⟩ := mem_rowMajor.1 hp
    obtain ⟨-, -, -, -, -, hend⟩ := hs.slot_sound dst hd
    rw [e]
    exact Nat.lt_of_lt_of_le (paddr_lt hx hy hc) hend
  · exact hs.mem_inside q hq

/-! ### Commands -/

/-- The end of a command keeps the invariant, whatever results it writes: the engine is idle. -/
theorem State.Inv.completed {s : State} (hs : s.Inv) (r0 r1 r2 : Word) (c : ErrorCode) (sticky : Bool) :
    State.Inv { s with res0 := r0, res1 := r1, res2 := r2, err := c, errSticky := sticky, busy := false } :=
  hs.of_frame rfl rfl rfl fun _ => rfl

/-- `BUF_CREATE` fails or allocates a raster with pixels and writes its size to RES0 (R131). -/
theorem execBufCreate_next {ha : Handle} {ch : Nat} {s t : State} (h : execBufCreate ha ch s = .next t) :
    EndsFailed s t ∨ ∃ w ht u v, 1 ≤ w ∧ 1 ≤ ht ∧ (ch = 1 ∨ ch = 3) ∧
      allocate s ha w ht ch (u32 s.latch.arg2) = some u ∧ t = { u with res0 := v, err := .none, busy := false } := by
  unfold execBufCreate at h
  split at h
  · exact .inl (raiseError_next (by decide) h)
  split at h
  · exact .inl (raiseError_next (by decide) h)
  next hpos =>
  split at h
  · exact .inl (raiseError_next (by decide) h)
  next hch =>
  dsimp only at h
  split at h
  · exact .inl (raiseError_next (by decide) h)
  next u hu => exact .inr ⟨_, _, u, _, by omega, by omega, not_not.1 hch, hu, commitRes0_next h⟩

theorem State.Inv.of_endsFailed {s t : State} (hs : s.Inv) (h : EndsFailed s t) : t.Inv := by
  obtain ⟨c, -, rfl⟩ := h
  exact hs.completed _ _ _ _ _

theorem State.Inv.execBufCreate {ha : Handle} {ch : Nat} {s t : State} (hs : s.Inv)
    (h : execBufCreate ha ch s = .next t) : t.Inv := by
  rcases execBufCreate_next h with hf | ⟨w, ht, u, v, hw, hht, hch, hu, rfl⟩
  · exact hs.of_endsFailed hf
  · exact (hs.allocate hw hht hch hu).1.completed _ _ _ _ _

theorem State.Inv.execBufRelease {ha : Handle} {s t : State} (hs : s.Inv) (h : execBufRelease ha s = .next t) :
    t.Inv := by
  unfold Machine.execBufRelease at h
  split at h
  · obtain rfl := commit_next h
    exact (hs.freeSlot ha).completed _ _ _ _ _
  · obtain rfl := commit_next h
    exact hs.completed _ _ _ _ _

theorem State.Inv.scaleWith {K : Kernel} {a b : Handle} {sk : ScaleKind} {s t : State} (hs : s.Inv)
    (h : scaleWith K a b sk s = .next t) : t.Inv := by
  rcases scaleWith_cases K a b sk s with
    ⟨-, e⟩ | ⟨q, -, -, -, -, ⟨-, e⟩ | ⟨hsound, ⟨-, e⟩ | ⟨u, hu, e⟩⟩⟩ <;> rw [e] at h
  · obtain rfl := Host.Outcome.next.inj h
    exact hs.completed _ _ _ _ _
  · cases h
  · obtain rfl := Host.Outcome.next.inj h
    exact hs.completed _ _ _ _ _
  · obtain rfl := Host.Outcome.next.inj h
    obtain ⟨hui, hlive⟩ := hs.allocate (Nat.le_max_left 1 _) (Nat.le_max_left 1 _) hsound.ch_pos hu
    exact (hui.frame K a hlive).completed _ _ _ _ _

/-- A command that writes no slot and no byte keeps the invariant. -/
theorem State.Inv.exec_of_not_writes {i : Instr} {s t : State} (hs : s.Inv) (hm : WritesMemory i = false)
    (hl : WritesSlots i = false) (h : exec i s = .next t) : t.Inv := by
  rcases exec_next h with hf | ⟨r0, r1, r2, sl, m, rfl, em, el⟩
  · exact hs.of_endsFailed hf
  · obtain rfl := em hm
    obtain rfl := el hl
    exact hs.completed _ _ _ _ _

/-- Every command keeps the invariant. -/
theorem State.Inv.exec {i : Instr} {s t : State} (hs : s.Inv) (h : exec i s = .next t) : t.Inv := by
  cases i with
  | bufCreate a k => exact hs.execBufCreate h
  | bufRelease a => exact hs.execBufRelease h
  | nnScale a b k => exact hs.scaleWith h
  | blScale a b k => exact hs.scaleWith h
  | _ => exact hs.exec_of_not_writes rfl rfl h

theorem State.Inv.engineTurn {s t : State} (hs : s.Inv) (h : engineTurn s = .next t) : t.Inv := by
  unfold Machine.engineTurn at h
  split at h
  · exact hs.of_endsFailed (raiseError_next (by decide) h)
  · exact hs.exec h

/-! ### The host and the reset line -/

/-- The state after reset, at either edge of the line, meets the invariant (R290). -/
theorem State.Inv.applyReset {s : State} (hs : s.Inv) (line : Bool) : (applyReset s line).Inv :=
  .of_cleared hs.pixmem_pos hs.pixmem_le rfl (applyReset_slot s line) rfl

/-- A register write keeps the invariant while reset is not asserted: the one that makes a command run is then allowed
(R108, R290). -/
theorem State.Inv.writeReg {s : State} (hs : s.Inv) (hr : s.resetAsserted = false) (r : Reg) (v : Word) :
    (writeReg s r v).Inv := by
  obtain ⟨hm, hl, hp, -, hr', -⟩ := writeReg_frame s r v
  exact hs.of_frame hp hl hm fun h => by rw [hr', hr] at h; cases h

theorem State.Inv.setBusyAccess {s : State} (hs : s.Inv) : (setBusyAccess s).Inv :=
  hs.of_frame rfl rfl rfl hs.reset_idle

theorem State.Inv.respond {s : State} (hs : s.Inv) (r : BusResponse) : (respond s r).Inv :=
  hs.of_frame rfl rfl rfl hs.reset_idle

theorem State.Inv.hostRead {s : State} (hs : s.Inv) (addr n : Nat) : (hostRead s addr n).1.Inv := by
  rcases hostRead_fst s addr n with e | ⟨-, -, e⟩ <;> rw [e]
  · exact hs
  · exact hs.setBusyAccess

theorem State.Inv.hostWrite {s : State} (hs : s.Inv) (hr : s.resetAsserted = false) (addr n : Nat) (v : Word) :
    (hostWrite s addr n v).1.Inv := by
  rcases hostWrite_fst s addr n v with e | e | ⟨r, e⟩ | ⟨k, ⟨-, -, hfit⟩, -, e⟩ <;> rw [e]
  · exact hs
  · exact hs.setBusyAccess
  · exact hs.writeReg hr r v
  · refine hs.setMem (writeLE_wf hs.mem_wf _ _ _) (fun p hp => ?_) fun a ha => ?_
    · rcases mem_writeLE hp with hp | hp
      · omega
      · exact hs.mem_inside p hp
    · rw [read?_writeLE]
      split
      · rfl
      · exact ha

/-- Whatever the host or the reset line does keeps the invariant. -/
theorem State.Inv.perform {s : State} (hs : s.Inv) (i : HostInput) : (perform s i).Inv := by
  cases i with
  | resetAssert => exact hs.applyReset true
  | resetRelease => exact hs.applyReset false
  | read addr n =>
    simp only [Machine.perform]
    split
    · exact hs.respond _
    · exact (hs.hostRead addr n).respond _
  | write addr n v =>
    simp only [Machine.perform]
    split
    · exact hs.respond _
    · next hr => exact (hs.hostWrite (Bool.eq_false_iff.2 hr) addr n v).respond _

theorem State.Inv.hostTurn {s t : State} (hs : s.Inv) (h : hostTurn s = .next t) : t.Inv := by
  rcases hostTurn_cases s with ⟨-, e⟩ | ⟨i, rest, -, e⟩ <;> rw [e] at h <;> obtain rfl := Host.Outcome.next.inj h
  · exact hs
  · have hq : State.Inv { s with hostQueue := rest } := hs.of_frame rfl rfl rfl hs.reset_idle
    exact hq.perform i

theorem State.Inv.popTurn {s : State} (hs : s.Inv) : (popTurn s).Inv := hs.of_frame rfl rfl rfl hs.reset_idle

theorem State.Inv.step {s t : State} (hs : s.Inv) (h : step s = .next t) : t.Inv := by
  rcases step_cases s with ⟨-, -, -, e⟩ | ⟨-, -, -, e⟩ | ⟨-, e⟩ <;> rw [e] at h
  · exact hs.popTurn.engineTurn h
  · exact hs.popTurn.hostTurn h
  · exact hs.hostTurn h

/-- Settles O17: the engine's turn keeps the invariant command by command, the host's turn access by access. -/
theorem everyStepKeepsTheInvariant : Obligations.EveryStepKeepsTheInvariant := fun _ _ hs h => hs.step h

/-- Settles O16: after reset no slot is live, no byte is written and no command runs. -/
theorem resetMeetsTheInvariant : Obligations.ResetMeetsTheInvariant :=
  .of_cleared (by decide) (by decide) rfl reset_slot rfl

end Sys2Proof.Machine
end

section
/-! PROOFS. What every command leaves unchanged, what its completion sets, and that it reads its operands from the latch
alone (R35, R36, R261, R262, R297). -/

namespace Sys2Proof.Machine

/-! ### Completion and frame -/

/-- Settles O8: a command that answers a next state has failed with its code, or succeeded. -/
theorem completionSetsStatus : Obligations.CompletionSetsStatus := by
  intro i s t h
  rcases exec_next h with ⟨c, hc, rfl⟩ | ⟨r0, r1, r2, sl, m, rfl, -, -⟩
  · exact ⟨rfl, fun e => absurd e hc, fun _ => rfl⟩
  · exact ⟨rfl, fun _ => rfl, fun e => absurd rfl e⟩

theorem writesMemory_eq_false {i : Instr} (hc : ∀ h k, i ≠ .bufCreate h k) (hn : ∀ a b k, i ≠ .nnScale a b k)
    (hb : ∀ a b k, i ≠ .blScale a b k) : WritesMemory i = false := by
  cases i with
  | bufCreate h k => exact absurd rfl (hc h k)
  | nnScale a b k => exact absurd rfl (hn a b k)
  | blScale a b k => exact absurd rfl (hb a b k)
  | _ => rfl

theorem writesSlots_eq_false {i : Instr} (hm : WritesMemory i = false) (hr : ∀ h, i ≠ .bufRelease h) :
    WritesSlots i = false := by
  cases i with
  | bufRelease h => exact absurd rfl (hr h)
  | bufCreate h k => cases hm
  | nnScale a b k => cases hm
  | blScale a b k => cases hm
  | _ => rfl

/-- Settles O11: both ends of a command change only the fields named there; slots and pixel memory are those of the
state before unless the command writes them. -/
theorem commandsLeaveTheRestUnchanged : Obligations.CommandsLeaveTheRestUnchanged := by
  intro i s t h
  rcases exec_next h with ⟨c, hc, rfl⟩ | ⟨r0, r1, r2, sl, m, rfl, hm, hl⟩
  · exact ⟨rfl, fun _ _ _ => ⟨fun _ => rfl, fun _ _ => rfl⟩⟩
  · refine ⟨rfl, fun hc hn hb => ?_⟩
    have hw := writesMemory_eq_false hc hn hb
    obtain rfl := hm hw
    refine ⟨fun _ => rfl, fun hr _ => ?_⟩
    obtain rfl := hl (writesSlots_eq_false hw hr)
    rfl

/-! ### The latch is all a command reads of the operand and control registers (R36, R297) -/

/-- The state with these values in ARG0-2 and CTRL. -/
abbrev withOperands (a0 a1 a2 : Word) (md : MapMode) (s : State) : State :=
  { s with arg0 := a0, arg1 := a1, arg2 := a2, mapMode := md }

/-- What `g` does depends on nothing that `f` changes, and `g` carries the change through. -/
def Carries (f : State → State) (g : State → StepOutcome) : Prop :=
  ∀ s, g (f s) = Spec.mapNext f (g s)

/-- Two branches under a test that does not see the change. -/
theorem Carries.ite {f : State → State} {c : State → Prop} [∀ s, Decidable (c s)] {g g' : State → StepOutcome}
    (hc : ∀ s, c (f s) ↔ c s) (hg : Carries f g) (hg' : Carries f g') :
    Carries f fun s => if c s then g s else g' s := by
  intro s
  by_cases h : c s
  · simp only [if_pos h, if_pos ((hc s).2 h)]
    exact hg s
  · simp only [if_neg h, if_neg (mt (hc s).1 h)]
    exact hg' s

section
variable (a0 a1 a2 : Word) (md : MapMode)

theorem raiseError_carries (c : ErrorCode) : Carries (withOperands a0 a1 a2 md) fun s => raiseError s c := fun _ => rfl

/-- A range-checked result of the latch (R151). -/
theorem commitChecked_carries (r : Latch → Int) :
    Carries (withOperands a0 a1 a2 md) fun s => commitChecked s (r s.latch) :=
  .ite (c := fun s => InInt32 (r s.latch)) (fun _ => .rfl) (fun _ => rfl) (fun _ => rfl)

theorem allocate_withOperands (s : State) (h : Handle) (w ht k b : Nat) :
    allocate (withOperands a0 a1 a2 md s) h w ht k b = (allocate s h w ht k b).map (withOperands a0 a1 a2 md) := by
  cases e : allocate s h w ht k b with
  | none =>
    have hn := allocate_eq_none.1 e
    exact allocate_eq_none.2 hn
  | some t =>
    obtain ⟨h1, h2, h3, rfl⟩ := allocate_eq_some.1 e
    exact allocate_eq_some.2 ⟨h1, h2, h3, rfl⟩

theorem execBufCreate_carries (ha : Handle) (ch : Nat) : Carries (withOperands a0 a1 a2 md) (execBufCreate ha ch) :=
  .ite (fun _ => .rfl) (raiseError_carries _ _ _ _ _) <| .ite (fun _ => .rfl) (raiseError_carries _ _ _ _ _) <|
    .ite (fun _ => .rfl) (raiseError_carries _ _ _ _ _) fun s => by
      dsimp only
      rw [allocate_withOperands]
      cases allocate s ha (s32 s.latch.arg0).toNat (s32 s.latch.arg1).toNat ch (u32 s.latch.arg2) <;> rfl

theorem sampleWith_carries (K : Kernel) (h : Handle) : Carries (withOperands a0 a1 a2 md) (sampleWith K h) :=
  .ite (fun _ => .rfl) (raiseError_carries _ _ _ _ _) <| .ite (fun _ => .rfl) (fun _ => rfl) fun _ => rfl

theorem scaleWith_carries (K : Kernel) (hs hd : Handle) (sk : ScaleKind) :
    Carries (withOperands a0 a1 a2 md) (scaleWith K hs hd sk) := by
  refine .ite (fun _ => .rfl) (raiseError_carries _ _ _ _ _) <|
    .ite (fun _ => .rfl) (raiseError_carries _ _ _ _ _) fun s => ?_
  dsimp only
  cases scaleValue sk s.latch.arg0 s.latch.arg1 with
  | none => rfl
  | some q =>
    have hslot : ∀ h, (withOperands a0 a1 a2 md s).slot h = s.slot h := fun _ => rfl
    simp only [hslot, allocate_withOperands]
    by_cases hsound : SoundSlot s.pixmemBytes (s.slot hs)
    · rw [if_neg (not_not.2 hsound), if_neg (not_not.2 hsound)]
      cases allocate s hd (outDim (s.slot hs).width.toNat q) (outDim (s.slot hs).height.toNat q) (s.slot hs).ch.toNat
        (u32 s.latch.arg2) <;> rfl
    · rw [if_pos hsound, if_pos hsound]
      rfl

/-- No command reads ARG0-2 or CTRL, and none writes them. -/
theorem exec_carries (i : Instr) : Carries (withOperands a0 a1 a2 md) (exec i) := by
  have fail := raiseError_carries a0 a1 a2 md
  have checked := commitChecked_carries a0 a1 a2 md
  cases i with
  | nop | fxToFlt | fxInt | fxFrac => exact fun _ => rfl
  | bufCreate ha ch => exact execBufCreate_carries a0 a1 a2 md ha ch
  | bufRelease ha => exact .ite (fun _ => .rfl) (fun _ => rfl) fun _ => rfl
  | fxToFix => exact .ite (fun _ => .rfl) (fail _) <| .ite (fun _ => .rfl) (fail _) <| checked (f32Floor16 ·.arg0)
  | fxFromInt => exact checked (s32 ·.arg0 * 65536)
  | fxAdd => exact checked fun l => s32 l.arg0 + s32 l.arg1
  | fxSub => exact checked fun l => s32 l.arg0 - s32 l.arg1
  | fxMul => exact checked fun l => fxMulUnits l.arg0 l.arg1
  | fxDiv => exact .ite (fun _ => .rfl) (fail _) <| checked fun l => fxDivUnits l.arg0 l.arg1
  | mapStep | clamp | mapNeigh => exact .ite (fun _ => .rfl) (fail _) fun _ => rfl
  | mapCenter => exact .ite (fun _ => .rfl) (fail _) <| .ite (fun _ => .rfl) (fail _) fun _ => rfl
  | mapOrigin => exact .ite (fun _ => .rfl) (fail _) <| checked fun l => originCoord (s32 l.arg0) (s32 l.arg1)
  | nnSample ha => exact sampleWith_carries a0 a1 a2 md nnValue ha
  | blSample ha => exact sampleWith_carries a0 a1 a2 md blValue ha
  | nnScale ha hb sk => exact scaleWith_carries a0 a1 a2 md nnValue ha hb sk
  | blScale ha hb sk => exact scaleWith_carries a0 a1 a2 md blValue ha hb sk

end

/-- Settles O14: every check and every result of a command is a function of the latch, the slots and pixel memory. -/
theorem runningCommandReadsOnlyTheLatch : Obligations.RunningCommandReadsOnlyTheLatch :=
  fun i s a0 a1 a2 md => exec_carries a0 a1 a2 md i s

end Sys2Proof.Machine
end

section
/-! PROOFS. Whose turn a step is, and how long a command runs (R42, R84, R261, R291, R298). -/

namespace Sys2Proof.Machine

/-! ### Turns (log 5) -/

/-- The engine moves unless the schedule gives the turn to a host that has something to do. -/
theorem engineMoves_eq_true_iff (s : State) :
    engineMoves s = true ↔ s.turns = [] ∨ s.turns.head? = some .engine ∨ s.hostQueue = [] := by
  unfold engineMoves
  split
  · next e => simp [e]
  · next hne =>
    cases e : s.turns with
    | nil => simp
    | cons a ts =>
      cases a with
      | host => exact absurd e (hne ts)
      | engine => simp

theorem engineMoves_eq_false_iff (s : State) :
    engineMoves s = false ↔ (∃ ts, s.turns = .host :: ts) ∧ ∃ i rest, s.hostQueue = i :: rest := by
  unfold engineMoves
  split
  · next ts e => cases h : s.hostQueue <;> simp [e]
  · next hne =>
    simp only [reduceCtorEq, false_iff]
    exact fun ⟨⟨ts, e⟩, _⟩ => hne ts e

theorem step_of_engineMoves {s : State} (hb : s.busy = true) (hr : s.resetAsserted = false)
    (he : engineMoves s = true) : step s = engineTurn (popTurn s) := by
  simp [step, hb, hr, he]

/-- Settles O5: the schedule's three cases are those in which the engine moves. -/
theorem engineTurnExecutesTheDecodedCommand : Obligations.EngineTurnExecutesTheDecodedCommand := by
  intro s i hb hr hturn hdec
  have hdec' : decode (popTurn s).lastCmd = .ok i := hdec
  calc step s = engineTurn (popTurn s) := step_of_engineMoves hb hr ((engineMoves_eq_true_iff s).2 hturn)
    _ = exec i (popTurn s) := by simp only [engineTurn, hdec']

/-! ### Under the invariant a command always completes (R261) -/

/-- The outcome is a next state with the engine idle. -/
def Completes (o : StepOutcome) : Prop := ∃ t, o = .next t ∧ t.busy = false

theorem commit_completes (s : State) : Completes (commit s) := ⟨_, rfl, rfl⟩

theorem raiseError_completes (s : State) (c : ErrorCode) : Completes (raiseError s c) := ⟨_, rfl, rfl⟩

theorem Completes.ite {c : Prop} [Decidable c] {o o' : StepOutcome} (h : Completes o) (h' : Completes o') :
    Completes (if c then o else o') := by
  split
  · exact h
  · exact h'

theorem commitChecked_completes (s : State) (r : Int) : Completes (commitChecked s r) :=
  .ite (commit_completes _) (raiseError_completes _ _)

theorem execBufCreate_completes (ha : Handle) (ch : Nat) (s : State) : Completes (execBufCreate ha ch s) := by
  refine .ite (raiseError_completes _ _) <| .ite (raiseError_completes _ _) <| .ite (raiseError_completes _ _) ?_
  dsimp only
  split
  · exact raiseError_completes _ _
  · exact commit_completes _

/-- A sample command on a slot that is sound if live completes. -/
theorem sampleWith_completes (K : Kernel) {h : Handle} {s : State}
    (hs : (s.slot h).valid = true → SoundSlot s.pixmemBytes (s.slot h)) : Completes (sampleWith K h s) := by
  rcases sampleWith_cases K h s with ⟨-, e⟩ | ⟨hv, hn, -⟩ | ⟨-, -, e⟩
  · exact ⟨_, e, rfl⟩
  · exact absurd (hs hv) hn
  · exact ⟨_, e, rfl⟩

/-- A frame command on a source slot that is sound if live completes. -/
theorem scaleWith_completes (K : Kernel) {a : Handle} (b : Handle) (sk : ScaleKind) {s : State}
    (hs : (s.slot a).valid = true → SoundSlot s.pixmemBytes (s.slot a)) : Completes (scaleWith K a b sk s) := by
  rcases scaleWith_cases K a b sk s with ⟨-, e⟩ | ⟨q, hv, -, -, -, ⟨hn, -⟩ | ⟨-, ⟨-, e⟩ | ⟨u, -, e⟩⟩⟩
  · exact ⟨_, e, rfl⟩
  · exact absurd (hs hv) hn
  · exact ⟨_, e, rfl⟩
  · exact ⟨_, e, rfl⟩

/-- Every command completes where live slots are sound: nothing else could stop it. -/
theorem State.Inv.exec_completes {s : State} (hs : s.Inv) (i : Instr) : Completes (Machine.exec i s) := by
  cases i with
  | nop | fxToFlt | fxInt | fxFrac => exact commit_completes _
  | bufCreate ha ch => exact execBufCreate_completes ha ch s
  | bufRelease ha => exact .ite (commit_completes _) (commit_completes _)
  | fxToFix => exact .ite (raiseError_completes _ _) <| .ite (raiseError_completes _ _) (commitChecked_completes _ _)
  | fxFromInt | fxAdd | fxSub | fxMul => exact commitChecked_completes _ _
  | fxDiv | mapOrigin => exact .ite (raiseError_completes _ _) (commitChecked_completes _ _)
  | mapStep | clamp | mapNeigh => exact .ite (raiseError_completes _ _) (commit_completes _)
  | mapCenter => exact .ite (raiseError_completes _ _) <| .ite (raiseError_completes _ _) (commit_completes _)
  | nnSample ha => exact sampleWith_completes nnValue (hs.slot_sound ha)
  | blSample ha => exact sampleWith_completes blValue (hs.slot_sound ha)
  | nnScale ha hb sk => exact scaleWith_completes nnValue hb sk (hs.slot_sound ha)
  | blScale ha hb sk => exact scaleWith_completes blValue hb sk (hs.slot_sound ha)

theorem State.Inv.engineTurn_completes {s : State} (hs : s.Inv) : Completes (Machine.engineTurn s) := by
  unfold Machine.engineTurn
  split
  · exact raiseError_completes _ _
  · exact hs.exec_completes _

/-! ### A host access leaves a running command as it is -/

/-- A state in which the same word still runs on the same latch, with the same inputs to come and the same schedule. -/
def SameRun (s t : State) : Prop :=
  t.busy = true ∧ t.lastCmd = s.lastCmd ∧ t.latch = s.latch ∧ t.hostQueue = s.hostQueue ∧ t.turns = s.turns

/-- No register write touches a running command: a CMD write is dropped (R108, R267). -/
theorem writeReg_sameRun {s : State} (hb : s.busy = true) (r : Reg) (v : Word) : SameRun s (writeReg s r v) := by
  cases r <;> simp [SameRun, writeReg, issue, hb]

theorem hostRead_sameRun {s : State} (hb : s.busy = true) (addr n : Nat) : SameRun s (hostRead s addr n).1 := by
  rcases hostRead_fst s addr n with e | ⟨-, -, e⟩ <;> rw [e] <;> exact ⟨hb, rfl, rfl, rfl, rfl⟩

theorem hostWrite_sameRun {s : State} (hb : s.busy = true) (addr n : Nat) (v : Word) :
    SameRun s (hostWrite s addr n v).1 := by
  rcases hostWrite_fst s addr n v with e | e | ⟨r, e⟩ | ⟨k, -, hidle, -⟩
  · rw [e]; exact ⟨hb, rfl, rfl, rfl, rfl⟩
  · rw [e]; exact ⟨hb, rfl, rfl, rfl, rfl⟩
  · rw [e]; exact writeReg_sameRun hb r v
  · rw [hb] at hidle; cases hidle

/-- What an input does to a running command: an edge of the reset line abandons it (R291), a host access leaves it. -/
theorem perform_cases_of_busy {s : State} (hb : s.busy = true) (i : HostInput) :
    ((i = .resetAssert ∨ i = .resetRelease) ∧ (perform s i).busy = false) ∨ SameRun s (perform s i) := by
  cases i with
  | resetAssert => exact .inl ⟨.inl rfl, rfl⟩
  | resetRelease => exact .inl ⟨.inr rfl, rfl⟩
  | read addr n =>
    refine .inr ?_
    simp only [perform]
    split
    · exact ⟨hb, rfl, rfl, rfl, rfl⟩
    · exact hostRead_sameRun hb addr n
  | write addr n v =>
    refine .inr ?_
    simp only [perform]
    split
    · exact ⟨hb, rfl, rfl, rfl, rfl⟩
    · exact hostWrite_sameRun hb addr n v

/-- A step of the host while a command runs: the oldest input is performed, and the turn and the input are used up. -/
theorem step_of_not_engineMoves {s : State} (hb : s.busy = true) (hr : s.resetAsserted = false)
    (he : engineMoves s = false) : ∃ i rest ts, s.turns = .host :: ts ∧ s.hostQueue = i :: rest ∧
      step s = .next (perform { s with hostQueue := rest, turns := ts } i) := by
  obtain ⟨⟨ts, hts⟩, i, rest, hq⟩ := (engineMoves_eq_false_iff s).1 he
  refine ⟨i, rest, ts, hts, hq, ?_⟩
  simp [step, hb, hr, he, hostTurn, popTurn, hq, hts]

/-! ### A running command ends -/

/-- From `s` the same command runs for `k` more steps, and the next step ends it; without a reset edge in the queue the
engine ends it. -/
def EndsAfter (s : State) (k : Nat) : Prop :=
  ∃ u t, Host.Core.run Sys2Proof.core k s = .next u ∧
    u.busy = true ∧ u.lastCmd = s.lastCmd ∧ u.latch = s.latch ∧ step u = .next t ∧ t.busy = false ∧
    (.resetAssert ∉ s.hostQueue → .resetRelease ∉ s.hostQueue → engineTurn (popTurn u) = .next t)

theorem run_succ_of_next (M : Host.Core) {s s' : M.State} (h : M.step s = .next s') (k : Nat) :
    M.run (k + 1) s = M.run k s' := by
  simp only [Host.Core.run, h]

/-- One step of the host in front of a run that ends. -/
theorem EndsAfter.cons {s s' : State} {k : Nat} (hstep : step s = .next s') (hcmd : s'.lastCmd = s.lastCmd)
    (hlatch : s'.latch = s.latch) (hqueue : s'.hostQueue ⊆ s.hostQueue) (h : EndsAfter s' k) : EndsAfter s (k + 1) := by
  obtain ⟨u, t, hrun, hb, hc, hl, hend, ht, heng⟩ := h
  exact ⟨u, t, (run_succ_of_next Sys2Proof.core hstep k).trans hrun, hb, hc.trans hcmd, hl.trans hlatch, hend, ht,
    fun ha hr => heng (mt (@hqueue _) ha) (mt (@hqueue _) hr)⟩

theorem State.Inv.not_resetAsserted {s : State} (hs : s.Inv) (hb : s.busy = true) : s.resetAsserted = false := by
  cases hr : s.resetAsserted with
  | false => rfl
  | true => rw [hs.reset_idle hr] at hb; cases hb

/-- At the engine's turn the command completes at once. -/
theorem State.Inv.endsAfter_zero {s : State} (hs : s.Inv) (hb : s.busy = true) (he : engineMoves s = true) :
    EndsAfter s 0 := by
  obtain ⟨t, ht, hidle⟩ := hs.popTurn.engineTurn_completes
  have hstep := step_of_engineMoves hb (hs.not_resetAsserted hb) he
  exact ⟨s, t, rfl, hb, rfl, rfl, hstep.trans ht, hidle, fun _ _ => ht⟩

/-- A running command ends within its turns: each turn of the host uses one up, and the engine's turn completes it. -/
theorem State.Inv.endsAfter {ts : List Agent} {s : State} (hs : s.Inv) (hb : s.busy = true) (hts : s.turns = ts) :
    ∃ k ≤ ts.length, EndsAfter s k := by
  induction ts generalizing s with
  | nil => exact ⟨0, Nat.le_refl _, hs.endsAfter_zero hb ((engineMoves_eq_true_iff s).2 (.inl hts))⟩
  | cons a ts ih =>
    cases he : engineMoves s with
    | true => exact ⟨0, Nat.zero_le _, hs.endsAfter_zero hb he⟩
    | false =>
      obtain ⟨i, rest, ts', hts', hq, hstep⟩ := step_of_not_engineMoves hb (hs.not_resetAsserted hb) he
      obtain ⟨-, rfl⟩ := List.cons.inj (hts.symm.trans hts')
      rcases perform_cases_of_busy (s := { s with hostQueue := rest, turns := ts }) hb i with
        ⟨hedge, hidle⟩ | ⟨hb', hcmd, hlatch, hqueue, hturns⟩
      · refine ⟨0, Nat.zero_le _, s, _, rfl, hb, rfl, rfl, hstep, hidle, fun ha hr => ?_⟩
        rw [hq] at ha hr
        rcases hedge with rfl | rfl
        · exact absurd List.mem_cons_self ha
        · exact absurd List.mem_cons_self hr
      · obtain ⟨k, hk, hend⟩ := ih (hs.step hstep) hb' hturns
        have hsub : rest ⊆ s.hostQueue := hq ▸ List.subset_cons_self i rest
        exact ⟨k + 1, Nat.succ_le_succ hk, hend.cons hstep hcmd hlatch (hqueue ▸ hsub)⟩

/-- Settles O13: by induction on the turns left, the invariant carried along by O17's step lemma. -/
theorem runningCommandEndsWithinItsTurns : Obligations.RunningCommandEndsWithinItsTurns := by
  intro s hs hb
  obtain ⟨k, hk, u, t, h⟩ := hs.endsAfter hb rfl
  exact ⟨k, u, t, hk, h⟩

end Sys2Proof.Machine
end

section
/-! PROOFS. The registers as the host sees them: after reset, by an aligned 32-bit read, by an aligned 32-bit write
(R31 to R39, R44, R75, R76, R108, R267). -/

namespace Sys2Proof.Machine

/-! ### The layouts of the read registers in numbers (R32, R33, R39) -/

theorem ctrlWord_eq (s : State) : ctrlWord s = if s.mapMode = .origin then 1#32 else 0#32 := by
  unfold ctrlWord
  cases s.mapMode <;> rfl

/-- The fields of `STATUS` at their weights, for each of their values (R33). -/
theorem statusFields_eq : ∀ (busy sticky overrun access : Bool) (code : BitVec 4),
    0#21 ++ BitVec.ofBool access ++ BitVec.ofBool overrun ++ BitVec.ofBool sticky ++ code ++ 0#3 ++ BitVec.ofBool busy =
      BitVec.ofNat 32
        (busy.toNat + 16 * code.toNat + 256 * sticky.toNat + 512 * overrun.toNat + 1024 * access.toNat) := by
  decide

theorem statusWord_eq (s : State) :
    statusWord s = BitVec.ofNat 32 (s.busy.toNat + 16 * s.err.code.toNat + 256 * s.errSticky.toNat +
      512 * s.overrun.toNat + 1024 * s.busyAccess.toNat) :=
  statusFields_eq s.busy s.errSticky s.overrun s.busyAccess s.err.code

/-- The fields of `BUFh_INFO` at their weights, for each of their values (R39). -/
theorem infoFields_eq : ∀ (valid : Bool) (ch : BitVec 2),
    0#29 ++ ch ++ BitVec.ofBool valid = BitVec.ofNat 32 (valid.toNat + 2 * ch.toNat) := by
  decide

theorem infoWord_eq (d : Slot) : infoWord d = BitVec.ofNat 32 (d.valid.toNat + 2 * d.ch.toNat) :=
  infoFields_eq d.valid d.ch

/-! ### After reset -/

/-- Settles O19: no register and no acceptance reads the latch. -/
theorem resetLeavesTheListedValues : Obligations.ResetLeavesTheListedValues := by
  refine ⟨rfl, rfl, by decide, rfl, rfl, rfl, rfl, rfl, rfl, rfl, reset_slot, fun _ => ⟨rfl, rfl⟩, rfl,
    fun s l => ⟨fun _ => rfl, fun r => ?_⟩⟩
  cases r <;> rfl

/-! ### Reads of the map -/

/-- The register map lies below the pixel window (R75). -/
theorem lt_windowOffset_of_regAt {off : Nat} {r : Reg} (h : regAt off = some r) : off < windowOffset := by
  by_contra hge
  unfold windowOffset at hge
  have hnone : regAt off = none := regAt_eq_none (fun hmem => by
    simp only [List.mem_cons, List.not_mem_nil, or_false] at hmem
    omega) (by omega)
  rw [h] at hnone
  cases hnone

/-- Settles O21: each offset is mapped to its register, and the read answers that register in its layout. -/
theorem registerReadsAnswerTheMap : Obligations.RegisterReadsAnswerTheMap := by
  intro s h hr rd ans
  have read : ∀ (off : Nat) (r : Reg), regAt off = some r → rd off = ans (readReg s r) := fun _ _ hreg =>
    perform_read_register hr (lt_windowOffset_of_regAt hreg) hreg
  obtain ⟨hinfo, hwidth, hheight, hbase⟩ := regAt_descriptor h
  rw [← ctrlWord_eq, ← statusWord_eq, ← infoWord_eq]
  exact ⟨read 0x000 .id rfl, read 0x004 .ctrl rfl, read 0x008 .status rfl, read 0x00C .cmd rfl, read 0x010 .arg0 rfl,
    read 0x014 .arg1 rfl, read 0x018 .arg2 rfl, read 0x020 .res0 rfl, read 0x024 .res1 rfl, read 0x028 .res2 rfl,
    read _ (.bufInfo h) hinfo, read _ (.bufWidth h) hwidth, read _ (.bufHeight h) hheight, read _ (.bufBase h) hbase⟩

/-! ### Writes of the map -/

/-- Bit `n` of a word is the parity of the word over `2 ^ n`. -/
theorem getLsbD_eq_decide (v : Word) (n : Nat) : v.getLsbD n = decide (v.toNat / 2 ^ n % 2 = 1) := by
  rw [BitVec.getLsbD, Nat.testBit_eq_decide_div_mod_eq]

/-- The four registers of a descriptor ignore a write (R39, R76). -/
theorem descriptorReg_readOnly (s : State) (h : Handle) (v : Word) {r : Nat} (hr : r < 4) :
    ∃ reg, regAt (0x100 + 16 * h.val + 4 * r) = some reg ∧ writeReg s reg v = s := by
  obtain ⟨hinfo, hwidth, hheight, hbase⟩ := regAt_descriptor h
  match r, hr with
  | 0, _ => exact ⟨.bufInfo h, hinfo, rfl⟩
  | 1, _ => exact ⟨.bufWidth h, by rw [← hwidth]; congr 1; omega, rfl⟩
  | 2, _ => exact ⟨.bufHeight h, by rw [← hheight]; congr 1; omega, rfl⟩
  | 3, _ => exact ⟨.bufBase h, by rw [← hbase]; congr 1; omega, rfl⟩

/-- Settles O22: each offset is mapped to its register, and the write does what that register does with it. -/
theorem registerWritesFollowTheirFields : Obligations.RegisterWritesFollowTheirFields := by
  intro s h v hr wr ok
  have write : ∀ (off : Nat) (r : Reg), regAt off = some r → wr off = respond (writeReg s r v) .done := fun _ _ hreg =>
    perform_write_register v hr (lt_windowOffset_of_regAt hreg) hreg
  have ctrl : v.getLsbD 0 = decide (v.toNat % 2 = 1) := by simpa using getLsbD_eq_decide v 0
  refine ⟨?_, ?_, write 0x010 .arg0 rfl, write 0x014 .arg1 rfl, write 0x018 .arg2 rfl, write 0x000 .id rfl,
    write 0x020 .res0 rfl, write 0x024 .res1 rfl, write 0x028 .res2 rfl, fun r hr4 => ?_⟩
  · rw [write 0x004 .ctrl rfl]
    simp only [writeReg, ctrl, decide_eq_true_eq]
    rfl
  · rw [write 0x008 .status rfl]
    simp only [writeReg, clearStatus, getLsbD_eq_decide]
    rfl
  · obtain ⟨reg, hreg, hro⟩ := descriptorReg_readOnly s h v hr4
    rw [write _ reg hreg, hro]
    rfl

/-- Settles O23: the offset is that of CMD, and issuing asks for BUSY alone. -/
theorem commandWriteIsAcceptedOrDropped : Obligations.CommandWriteIsAcceptedOrDropped := by
  intro s w hr
  have hcmd : perform s (.write (s.bscBase + 0x00C) 4 w) = respond (issue s w) .done :=
    perform_write_register (off := 0x00C) (r := .cmd) w hr (by decide) rfl
  constructor
  · intro hb
    rw [hcmd, issue, if_neg (by simp [hb])]
    rfl
  · intro hb
    rw [hcmd, issue, if_pos hb]
    rfl

end Sys2Proof.Machine
end

section
/-! PROOFS. The host's accesses through the bus: the host's turn, the pixel window idle and busy, rejected accesses, and
what a read may change (R71, R72, R75 to R78, R80, R82, R84, R268, R269, R298, R299). -/

namespace Sys2Proof.Machine

/-! ### The host's turn (R84, R298, R299) -/

/-- Settles O6: BUSY and the schedule say whose turn the step is, and the host's turn takes the oldest input. -/
theorem hostTurnPerformsTheOldestAccess : Obligations.HostTurnPerformsTheOldestAccess := by
  intro s
  refine ⟨fun a rest hq => ⟨fun hb => ?_, fun hb hr hturn => ?_⟩, fun ⟨hq, hb⟩ => ?_⟩
  · simp [step, hb, hostTurn, hq]
  · have hhost : ∃ ts, s.turns = .host :: ts := ⟨_, List.eq_cons_of_mem_head? hturn⟩
    obtain ⟨i, rest', ts, hts, hq', hstep⟩ :=
      step_of_not_engineMoves hb hr ((engineMoves_eq_false_iff s).2 ⟨hhost, a, rest, hq⟩)
    obtain ⟨rfl, rfl⟩ := List.cons.inj (hq.symm.trans hq')
    rw [hstep, hts, List.tail_cons]
  · simp [step, hb, hostTurn, hq]

/-! ### Accesses while reset is not asserted -/

theorem perform_read {s : State} (hr : s.resetAsserted = false) (addr n : Nat) :
    perform s (.read addr n) = respond (hostRead s addr n).1 (hostRead s addr n).2 := by
  simp [perform, hr]

theorem perform_write {s : State} (hr : s.resetAsserted = false) (addr n : Nat) (v : Word) :
    perform s (.write addr n v) = respond (hostWrite s addr n v).1 (hostWrite s addr n v).2 := by
  simp [perform, hr]

/-! ### The pixel window while no command runs (R71, R72, R77, R78) -/

/-- An access that R77 accepts falls on the byte of pixel memory it names. -/
theorem locate_of_windowAccess {s : State} {addr a n : Nat} (hp : s.pixmemBytes ≤ windowOffset)
    (e : addr = s.bscBase + windowOffset + a) (hw : WindowAccess s a n) : locate s addr = .window a := by
  obtain ⟨hn, -, hfit⟩ := hw
  exact locate_window e (by omega) (by omega)

/-- Settles O24: `MemRead` is the sum of its bytes by their weights. -/
theorem windowReadsAreLittleEndian : Obligations.WindowReadsAreLittleEndian := by
  intro s addr a n hr hb hp e hn hal hfit
  have hw : WindowAccess s a n := ⟨hn, hal, hfit⟩
  rw [perform_read hr, hostRead_window (locate_of_windowAccess hp e hw), if_neg (by simp [hb]), if_pos hw,
    readLE_eq_sum]
  rfl

/-- Byte `k` of a word, as a quotient and as a bit field. -/
theorem ofNat_div_eq_extractLsb' (v : Word) (k : Nat) :
    BitVec.ofNat 8 (v.toNat / 256 ^ k) = v.extractLsb' (8 * k) 8 := by
  apply BitVec.eq_of_toNat_eq
  rw [BitVec.toNat_ofNat, BitVec.extractLsb'_toNat, Nat.shiftRight_eq_div_pow, Nat.pow_mul]

/-- Settles O25: `MemWrite` writes the bytes of the value at rising addresses, and `setMem` changes nothing else. -/
theorem windowWritesAreLittleEndian : Obligations.WindowWritesAreLittleEndian := by
  intro s addr a n v hr hb hp e hn hal hfit
  have hw : WindowAccess s a n := ⟨hn, hal, hfit⟩
  have hperf : perform s (.write addr n v) = respond (setMem s (s.mem.writeLE a n v.toNat)) .done := by
    rw [perform_write hr, hostWrite_window (locate_of_windowAccess hp e hw), if_neg (by simp [hb]), if_pos hw]
  refine ⟨_, hperf, fun k hk => ?_, fun k hk => ?_, rfl⟩
  · rw [respond_byte, setMem_byte, byteAt_writeLE, if_pos (by omega), Nat.add_sub_cancel_left,
      ofNat_div_eq_extractLsb']
  · rw [respond_byte, setMem_byte, byteAt_writeLE, if_neg hk]
    rfl

/-! ### The pixel window while a command runs (R80, R268) -/

/-- Settles O26: in the window BUSY is looked at before width and alignment (log 11). -/
theorem windowIsBlockedWhileBusy : Obligations.WindowIsBlockedWhileBusy := by
  intro s addr a n v hr hb hp e ha
  have hloc : locate s addr = .window a := locate_window e ha (Nat.lt_of_lt_of_le ha hp)
  constructor
  · rw [perform_read hr, hostRead_window hloc, if_pos hb]
    rfl
  · rw [perform_write hr, hostWrite_window hloc, if_pos hb]
    rfl

/-! ### Rejected accesses (R75 to R77, R269) -/

/-- An access the block answers with a bus error, changing nothing, whether it reads or writes. -/
def Rejects (s : State) (addr n : Nat) : Prop :=
  hostRead s addr n = (s, .busError) ∧ ∀ v, hostWrite s addr n v = (s, .busError)

/-- A register access of another width, or where the map has no register (R76). -/
theorem rejects_of_register {s : State} {addr off n : Nat} (h : locate s addr = .register off)
    (hbad : n ≠ 4 ∨ regAt off = none) : Rejects s addr n := by
  cases hreg : regAt off with
  | none => exact ⟨by simp only [hostRead, h, hreg], fun v => by simp only [hostWrite, h, hreg]⟩
  | some r =>
    have hn : n ≠ 4 := hbad.resolve_right (by simp [hreg])
    exact ⟨by simp only [hostRead, h, hreg, if_neg hn], fun v => by simp only [hostWrite, h, hreg, if_neg hn]⟩

/-- An idle window access that R77 does not accept (log 12). -/
theorem rejects_of_window {s : State} {addr a n : Nat} (h : locate s addr = .window a) (hb : s.busy = false)
    (hbad : ¬WindowAccess s a n) : Rejects s addr n := by
  have hidle : ¬s.busy = true := by simp [hb]
  exact ⟨by rw [hostRead_window h, if_neg hidle, if_neg hbad],
    fun v => by rw [hostWrite_window h, if_neg hidle, if_neg hbad]⟩

/-- An access past pixel memory (R75). -/
theorem rejects_of_unmapped {s : State} {addr : Nat} (h : locate s addr = .unmapped) (n : Nat) : Rejects s addr n :=
  ⟨by simp only [hostRead, h], fun v => by simp only [hostWrite, h]⟩

theorem Rejects.perform {s : State} {addr n : Nat} (h : Rejects s addr n) (hr : s.resetAsserted = false) (v : Word) :
    perform s (.read addr n) = respond s .busError ∧ perform s (.write addr n v) = respond s .busError := by
  obtain ⟨hread, hwrite⟩ := h
  exact ⟨by rw [perform_read hr, hread], by rw [perform_write hr, hwrite v]⟩

/-- Settles O27: the address falls on a register offset, in the window or past it, and each place has its rejection. -/
theorem rejectedAccessesChangeNothing : Obligations.RejectedAccessesChangeNothing := by
  intro s off n v hr hoff hcase
  suffices h : Rejects s (s.bscBase + off) n from h.perform hr v
  rcases hcase with ⟨hlow, hbad⟩ | ⟨a, rfl, hbad⟩
  · exact rejects_of_register (locate_register s hlow) (hbad.imp id fun ⟨h1, h2⟩ => regAt_eq_none h1 h2)
  · have e : s.bscBase + (0x01000000 + a) = s.bscBase + windowOffset + a := (Nat.add_assoc ..).symm
    have ha : a < windowOffset := by unfold windowOffset; omega
    by_cases hin : a < s.pixmemBytes
    · obtain ⟨hb, hbad⟩ := hbad.resolve_right (by omega)
      exact rejects_of_window (locate_window e hin ha) hb fun ⟨hn, hal, hfit⟩ => by omega
    · exact rejects_of_unmapped (locate_unmapped e (by omega) ha) n

/-! ### Reads (R82) -/

/-- Settles O28: a read changes nothing of the block unless it is blocked, which only a window address is. -/
theorem readsHaveNoOtherSideEffect : Obligations.ReadsHaveNoOtherSideEffect := by
  intro s a n
  by_cases hr : s.resetAsserted = true
  · exact ⟨.noResponse, .inl (by rw [perform, if_pos hr]; rfl)⟩
  · refine ⟨(hostRead s a n).2, ?_⟩
    rw [perform_read (Bool.eq_false_iff.2 hr)]
    rcases hostRead_fst s a n with e | ⟨hb, ⟨k, hk⟩, e⟩
    · exact .inl (by rw [e]; rfl)
    · obtain ⟨rfl, hin⟩ := of_locate_window hk
      refine .inr ⟨hb, Nat.le_add_right _ _, Nat.add_lt_add_left hin _, ?_⟩
      rw [e]
      rfl

end Sys2Proof.Machine
end

section
/-! PROOFS. The frame loop's order, and that no command sees a byte nothing has written since reset
(R71, R83, R89, R224, R292). -/

namespace Sys2Proof.Machine

/-! ### The order of the samples (R89, R224) -/

/-- Two lists of the same samples leave the same bytes: a sample's byte is the kernel's value on the memory before the
loop, and every other byte is kept. -/
theorem frameLoop_read?_eq_of_mem_iff {K : Kernel} (r : Nat) {src dst : Slot} (mode : MapMode) (hK : ReadsOnly K src)
    (hch : dst.ch = src.ch) (hap : Apart src dst) {ps qs : List (Nat × Nat × Nat)} (hps : ∀ p ∈ ps, dst.Sample p)
    (hmem : ∀ p, p ∈ ps ↔ p ∈ qs) (m : Memory) (a : Nat) :
    (frameLoop K r src dst mode m ps).read? a = (frameLoop K r src dst mode m qs).read? a := by
  have hqs : ∀ p ∈ qs, dst.Sample p := fun p hp => hps p ((hmem p).2 hp)
  by_cases h : ∃ p ∈ ps, paddr dst p.1 p.2.1 p.2.2 = a
  · obtain ⟨p, hp, rfl⟩ := h
    rw [frameLoop_read?_of_mem hK hch hap hps m hp, frameLoop_read?_of_mem hK hch hap hqs m ((hmem p).1 hp)]
  · have hne : ∀ p ∈ ps, paddr dst p.1 p.2.1 p.2.2 ≠ a := fun p hp e => h ⟨p, hp, e⟩
    have hne' : ∀ p ∈ qs, paddr dst p.1 p.2.1 p.2.2 ≠ a := fun p hp => hne p ((hmem p).2 hp)
    rw [frameLoop_read?_of_ne _ _ _ _ _ _ _ _ hne, frameLoop_read?_of_ne _ _ _ _ _ _ _ _ hne']

/-- Settles O59: a permutation has the same samples. -/
theorem frameOrderIsNotObservable : Obligations.FrameOrderIsNotObservable := by
  intro p r src dst mode m K order hK hsound hch hap hperm a
  have hreads : ReadsOnly K src := by
    rcases hK with rfl | rfl
    · exact readsOnly_nnValue hsound
    · exact readsOnly_blValue hsound
  have hsamples : ∀ q ∈ order, dst.Sample q := fun q hq => mem_rowMajor.1 (hperm.mem_iff.1 hq)
  unfold byteAt
  rw [frameLoop_read?_eq_of_mem_iff r mode hreads hch hap hsamples (fun _ => hperm.mem_iff) m a]

/-! ### Written bytes do not depend on the draw (R292, log 3) -/

/-- Every byte of the slot's region has been written since reset. -/
def Written (m : Memory) (d : Slot) : Prop :=
  ∀ a, d.base.toNat ≤ a → a < d.base.toNat + slotSize d → (m.read? a).isSome

theorem State.Inv.written {s : State} (hs : s.Inv) {h : Handle} (hv : (s.slot h).valid = true) :
    Written s.mem (s.slot h) := by
  intro a hlo hhi
  have := hs.slots_written h hv (a - (s.slot h).base.toNat) (by omega)
  rwa [Nat.add_sub_cancel' hlo] at this

theorem Written.write {m : Memory} {d : Slot} (hm : Written m d) (a : Nat) (b : Byte) : Written (m.write a b) d := by
  intro k hlo hhi
  rw [read?_write]
  split
  · rfl
  · exact hm k hlo hhi

/-- A kernel that reads only a written source gives the same sample for every draw. -/
theorem Written.kernel_eq {m : Memory} {src : Slot} (hm : Written m src) {K : Kernel} (hK : ReadsOnly K src) (r n : Nat)
    (sx sy : Word) {c : Nat} (hc : c < src.ch.toNat) :
    K (byteAt n m) src sx sy c = K (byteAt r m) src sx sy c := by
  refine hK _ _ (fun a hlo hhi => ?_) sx sy c hc
  obtain ⟨b, hb⟩ := Option.isSome_iff_exists.1 (hm a hlo hhi)
  rw [byteAt_of_read? hb, byteAt_of_read? hb]

/-- The frame loop over a written source leaves the same memory for every draw. -/
theorem Written.frameLoop_eq {K : Kernel} {src : Slot} (hK : ReadsOnly K src) (r n : Nat) (dst : Slot) (mode : MapMode)
    {ps : List (Nat × Nat × Nat)} (hps : ∀ p ∈ ps, p.2.2 < src.ch.toNat) {m : Memory} (hm : Written m src) :
    frameLoop K n src dst mode m ps = frameLoop K r src dst mode m ps := by
  induction ps generalizing m with
  | nil => rfl
  | cons p ps ih =>
    have hpixel : framePixel K n src dst mode m p = framePixel K r src dst mode m p :=
      congrArg (m.write _) (hm.kernel_eq hK r n _ _ (hps p List.mem_cons_self))
    rw [frameLoop_cons, frameLoop_cons, hpixel]
    exact ih (fun q hq => hps q (List.mem_cons_of_mem _ hq)) (hm.write _ _)

/-- `PACK` looks at the channels a pixel has (R205). -/
theorem packPixel_congr {k : Nat} (hk : k = 1 ∨ k = 3) {v v' : Nat → Byte} (h : ∀ c, c < k → v c = v' c) :
    packPixel k v = packPixel k v' := by
  rcases hk with rfl | rfl
  · simp [packPixel, h 0]
  · simp [packPixel, h 0, h 1, h 2]

/-! ### Commands under another draw -/

/-- The state with another draw of the unwritten bytes. -/
abbrev withResets (n : Nat) (s : State) : State := { s with resets := n }

/-- The outcome with another draw at its next state. -/
abbrev redrawn (n : Nat) (o : StepOutcome) : StepOutcome := Spec.mapNext (withResets n) o

/-- Two branches under one test. -/
theorem ite_eq_redrawn {n : Nat} {c : Prop} [Decidable c] {o o' u u' : StepOutcome} (ho : c → o' = redrawn n o)
    (hu : ¬c → u' = redrawn n u) : (if c then o' else u') = redrawn n (if c then o else u) := by
  split
  · next h => exact ho h
  · next h => exact hu h

theorem raiseError_withResets (n : Nat) (s : State) (c : ErrorCode) :
    raiseError (withResets n s) c = redrawn n (raiseError s c) := rfl

/-- A check that raises an error where it fails. -/
theorem check_eq_redrawn {n : Nat} {c : Prop} [Decidable c] {s : State} {e : ErrorCode} {u u' : StepOutcome}
    (hu : ¬c → u' = redrawn n u) :
    (if c then raiseError (withResets n s) e else u') = redrawn n (if c then raiseError s e else u) :=
  ite_eq_redrawn (fun _ => raiseError_withResets n s e) hu

theorem commitChecked_withResets (n : Nat) (s : State) (r : Int) :
    commitChecked (withResets n s) r = redrawn n (commitChecked s r) :=
  ite_eq_redrawn (fun _ => rfl) fun _ => rfl

theorem allocate_withResets (n : Nat) (s : State) (h : Handle) (w ht k b : Nat) :
    allocate (withResets n s) h w ht k b = (allocate s h w ht k b).map (withResets n) := by
  cases e : allocate s h w ht k b with
  | none =>
    have hn := allocate_eq_none.1 e
    exact allocate_eq_none.2 hn
  | some t =>
    obtain ⟨h1, h2, h3, rfl⟩ := allocate_eq_some.1 e
    exact allocate_eq_some.2 ⟨h1, h2, h3, rfl⟩

/-- Allocation writes its own slot and leaves every other one. -/
theorem allocate_slot {s t : State} {h : Handle} {w ht k b : Nat} (ha : allocate s h w ht k b = some t) :
    t.slot h = newSlot w ht k b ∧ ∀ j, j ≠ h → t.slot j = s.slot j := by
  obtain ⟨-, -, -, rfl⟩ := allocate_eq_some.1 ha
  exact ⟨setSlot_slot_self _ _ _, fun j hj => setSlot_slot_ne _ _ hj⟩

theorem execBufCreate_withResets (n : Nat) (ha : Handle) (ch : Nat) (s : State) :
    execBufCreate ha ch (withResets n s) = redrawn n (execBufCreate ha ch s) := by
  refine check_eq_redrawn fun _ => check_eq_redrawn fun _ => check_eq_redrawn fun _ => ?_
  dsimp only
  rw [allocate_withResets]
  cases allocate s ha (s32 s.latch.arg0).toNat (s32 s.latch.arg1).toNat ch (u32 s.latch.arg2) <;> rfl

/-- A kernel that reads only its source wherever the source is sound. -/
abbrev KernelReadsSource (K : Kernel) : Prop := ∀ {p : Nat} {src : Slot}, SoundSlot p src → ReadsOnly K src

/-- A sample command reads bytes of its live source alone (R202, R204). -/
theorem sampleWith_withResets {s : State} (hs : s.Inv) {K : Kernel} (hK : KernelReadsSource K) (n : Nat)
    (h : Handle) : sampleWith K h (withResets n s) = redrawn n (sampleWith K h s) := by
  refine check_eq_redrawn fun hlive => ite_eq_redrawn (fun _ => rfl) fun hnn => ?_
  have hv : (s.slot h).valid = true := Bool.eq_true_of_not_eq_false hlive
  have hsound : SoundSlot s.pixmemBytes (s.slot h) := not_not.1 hnn
  have hpack : packPixel (s.slot h).ch.toNat (K (byteAt n s.mem) (s.slot h) s.latch.arg0 s.latch.arg1) =
      packPixel (s.slot h).ch.toNat (K (byteAt s.resets s.mem) (s.slot h) s.latch.arg0 s.latch.arg1) :=
    packPixel_congr hsound.ch_pos fun c hc =>
      (hs.written hv).kernel_eq (hK hsound) s.resets n _ _ hc
  exact congrArg (fun v => redrawn n (commitRes0 s v)) hpack

/-- The frame loop from a live source into a destination of its format leaves the same memory for every draw (R224). -/
theorem frame_withResets {t : State} (ht : t.Inv) {K : Kernel} (hK : KernelReadsSource K) (n : Nat)
    {a b : Handle} (ha : (t.slot a).valid = true) (hch : (t.slot b).ch = (t.slot a).ch) :
    frame K (withResets n t) a b = withResets n (frame K t a b) := by
  have hloop := Written.frameLoop_eq (hK (ht.slot_sound a ha)) t.resets n (t.slot b) t.latch.mapMode
    (ps := rowMajor (t.slot b).width.toNat (t.slot b).height.toNat (t.slot b).ch.toNat)
    (fun p hp => hch ▸ (mem_rowMajor.1 hp).2.2) (ht.written ha)
  exact congrArg (fun m => withResets n (setMem t m)) hloop

/-- A frame command reads bytes of its live source alone; those it writes itself are written (R225, R226). -/
theorem scaleWith_withResets {s : State} (hs : s.Inv) {K : Kernel} (hK : KernelReadsSource K) (n : Nat)
    (a b : Handle) (sk : ScaleKind) : scaleWith K a b sk (withResets n s) = redrawn n (scaleWith K a b sk s) := by
  refine check_eq_redrawn fun hlive => check_eq_redrawn fun hb => ?_
  have hv : (s.slot a).valid = true := Bool.eq_true_of_not_eq_false hlive
  obtain ⟨hne, -⟩ := not_or.1 hb
  dsimp only
  cases scaleValue sk s.latch.arg0 s.latch.arg1 with
  | none => rfl
  | some q =>
    refine ite_eq_redrawn (fun _ => rfl) fun hnn => ?_
    have hsound : SoundSlot s.pixmemBytes (s.slot a) := not_not.1 hnn
    have hslot : ∀ h, (withResets n s).slot h = s.slot h := fun _ => rfl
    rw [hslot, allocate_withResets]
    cases hu : allocate s b (outDim (s.slot a).width.toNat q) (outDim (s.slot a).height.toNat q) (s.slot a).ch.toNat
        (u32 s.latch.arg2) with
    | none => rfl
    | some t =>
      obtain ⟨ht, -⟩ := hs.allocate (Nat.le_max_left 1 _) (Nat.le_max_left 1 _) hsound.ch_pos hu
      obtain ⟨hdst, hother⟩ := allocate_slot hu
      have hsrc : t.slot a = s.slot a := hother a (Ne.symm hne)
      have hch : (t.slot b).ch = (t.slot a).ch := by
        rw [hdst, hsrc]
        exact (BitVec.ofNat_toNat 2 _).trans (BitVec.setWidth_eq _)
      have hframe := frame_withResets ht hK n (hsrc.symm ▸ hv) hch
      simp only [Option.map_some, hframe]
      rfl

/-- No command's outcome depends on the draw: every byte it reads was written since reset. -/
theorem exec_withResets {s : State} (hs : s.Inv) (n : Nat) (i : Instr) :
    exec i (withResets n s) = redrawn n (exec i s) := by
  have checked := commitChecked_withResets n s
  cases i with
  | nop | fxToFlt | fxInt | fxFrac => rfl
  | bufCreate ha ch => exact execBufCreate_withResets n ha ch s
  | bufRelease ha => exact ite_eq_redrawn (fun _ => rfl) fun _ => rfl
  | fxToFix => exact check_eq_redrawn fun _ => check_eq_redrawn fun _ => checked _
  | fxFromInt | fxAdd | fxSub | fxMul => exact checked _
  | fxDiv | mapOrigin => exact check_eq_redrawn fun _ => checked _
  | mapStep | clamp | mapNeigh => exact check_eq_redrawn fun _ => rfl
  | mapCenter => exact check_eq_redrawn fun _ => check_eq_redrawn fun _ => rfl
  | nnSample ha => exact sampleWith_withResets hs readsOnly_nnValue n ha
  | blSample ha => exact sampleWith_withResets hs readsOnly_blValue n ha
  | nnScale ha hb sk => exact scaleWith_withResets hs readsOnly_nnValue n ha hb sk
  | blScale ha hb sk => exact scaleWith_withResets hs readsOnly_blValue n ha hb sk

/-- Settles O15: only the kernels read memory, from a live source, whose bytes the invariant says are written. -/
theorem commandsNeverSeeUnwrittenBytes : Obligations.CommandsNeverSeeUnwrittenBytes :=
  fun _ hs i n => exec_withResets hs n i

end Sys2Proof.Machine
end

section
/-! PROOFS. Command words: the fields of a word, the rows of the opcode map, and that encoding and decoding are inverse
to each other (R100 to R108, R111). -/

namespace Sys2Proof

/-! ### The fields of a word as digits of its number (R101) -/

theorem opField_toNat (w : Word) : (opField w).toNat = w.toNat % 256 := by
  simp [opField, BitVec.extractLsb'_toNat]

theorem haField_val (w : Word) : (haField w).val = w.toNat / 256 % 16 := by
  simp [haField, Nat.shiftRight_eq_div_pow]

theorem hbField_val (w : Word) : (hbField w).val = w.toNat / 4096 % 16 := by
  simp [hbField, Nat.shiftRight_eq_div_pow]

theorem chField_eq (w : Word) : chField w = w.toNat / 65536 % 4 := by
  simp [chField, BitVec.extractLsb'_toNat, Nat.shiftRight_eq_div_pow]

theorem skField_bit (w : Word) : (skField w).bit = w.toNat / 65536 % 2 := by
  have hbit : w.getLsbD 16 = decide (w.toNat / 65536 % 2 = 1) := Machine.getLsbD_eq_decide w 16
  unfold skField
  rw [hbit]
  split <;> simp_all [ScaleKind.bit]

theorem ScaleKind.bit_inj {k k' : ScaleKind} (h : k.bit = k'.bit) : k = k' := by
  revert h
  cases k <;> cases k' <;> decide

/-! ### The fields of an encoded word (R111) -/

theorem fieldsWord_toNat (op ha hb top : Nat) :
    (fieldsWord op ha hb top).toNat = (op + ha * 0x100 + hb * 0x1000 + top * 0x10000) % 2 ^ 32 :=
  BitVec.toNat_ofNat _ _

theorem haField_fieldsWord {op : Nat} (hop : op < 256) (ha : Handle) (hb top : Nat) :
    haField (fieldsWord op ha.val hb top) = ha := by
  apply Fin.ext
  rw [haField_val, fieldsWord_toNat]
  omega

theorem hbField_fieldsWord {op : Nat} (hop : op < 256) (ha hb : Handle) (top : Nat) :
    hbField (fieldsWord op ha.val hb.val top) = hb := by
  apply Fin.ext
  rw [hbField_val, fieldsWord_toNat]
  omega

theorem chField_fieldsWord {op ch : Nat} (hop : op < 256) (hch : ch < 4) (ha : Handle) :
    chField (fieldsWord op ha.val 0 ch) = ch := by
  rw [chField_eq, fieldsWord_toNat]
  omega

theorem skField_fieldsWord {op : Nat} (hop : op < 256) (ha hb : Handle) (sk : ScaleKind) :
    skField (fieldsWord op ha.val hb.val sk.bit) = sk := by
  have hsk : sk.bit < 2 := by cases sk <;> decide
  apply ScaleKind.bit_inj
  rw [skField_bit, fieldsWord_toNat]
  omega

/-! ### The opcode map (R106) -/

/-- The value of OP that stands for each opcode (R106). -/
def Opcode.code : Opcode → BitVec 8
  | .nop => 0x00#8
  | .bufCreate => 0x01#8
  | .bufRelease => 0x02#8
  | .fxToFix => 0x10#8
  | .fxToFlt => 0x11#8
  | .fxFromInt => 0x12#8
  | .fxAdd => 0x13#8
  | .fxSub => 0x14#8
  | .fxMul => 0x15#8
  | .fxDiv => 0x16#8
  | .fxInt => 0x17#8
  | .fxFrac => 0x18#8
  | .mapStep => 0x20#8
  | .mapCenter => 0x21#8
  | .mapOrigin => 0x22#8
  | .clamp => 0x23#8
  | .mapNeigh => 0x24#8
  | .nnSample => 0x30#8
  | .blSample => 0x31#8
  | .nnScale => 0x40#8
  | .blScale => 0x41#8

theorem opcodeOf_eq_some_iff (b : BitVec 8) (op : Opcode) : opcodeOf b = some op ↔ b = op.code := by
  constructor
  · intro h
    apply BitVec.eq_of_toNat_eq
    unfold opcodeOf at h
    split at h <;> cases h <;> assumption
  · rintro rfl
    cases op <;> rfl

/-- What a legal word is: it has the OP of a row of R106 and no bit its format reserves (R107, R108). -/
theorem decode_eq_ok_iff (w : Word) (i : Instr) :
    decode w = .ok i ↔ ∃ op : Opcode, opField w = op.code ∧ w &&& op.format.reservedMask = 0#32 ∧ op.instr w = i := by
  simp only [← opcodeOf_eq_some_iff]
  unfold decode
  cases opcodeOf (opField w) with
  | none => simp
  | some op => by_cases hm : w &&& op.format.reservedMask = 0#32 <;> simp [hm]

/-! ### Decoding an encoded word -/

open Laws.EncodesLegally in
theorem encodesLegally (i : Instr) : Statement i := by
  cases i with
  | nop => exact nop
  | bufCreate ha ch => exact bufCreate ha ch
  | bufRelease ha => exact bufRelease ha
  | fxToFix => exact fxToFix
  | fxToFlt => exact fxToFlt
  | fxFromInt => exact fxFromInt
  | fxAdd => exact fxAdd
  | fxSub => exact fxSub
  | fxMul => exact fxMul
  | fxDiv => exact fxDiv
  | fxInt => exact fxInt
  | fxFrac => exact fxFrac
  | mapStep => exact mapStep
  | mapCenter => exact mapCenter
  | mapOrigin => exact mapOrigin
  | clamp => exact clamp
  | mapNeigh => exact mapNeigh
  | nnSample ha => exact nnSample ha
  | blSample ha => exact blSample ha
  | nnScale ha hb sk => exact nnScale ha hb sk
  | blScale ha hb sk => exact blScale ha hb sk

/-- The fields of a well-formed command survive its encoding. -/
theorem instr_encode {i : Instr} (hi : i.WellFormed = true) : (Laws.EncodesLegally.opcode i).instr (encode i) = i := by
  cases i with
  | bufCreate ha ch =>
    have hch : ch < 4 := of_decide_eq_true hi
    simp [Laws.EncodesLegally.opcode, Opcode.instr, encode, haField_fieldsWord, chField_fieldsWord, hch]
  | bufRelease ha | nnSample ha | blSample ha =>
    simp [Laws.EncodesLegally.opcode, Opcode.instr, encode, haField_fieldsWord]
  | nnScale ha hb sk | blScale ha hb sk =>
    simp [Laws.EncodesLegally.opcode, Opcode.instr, encode, haField_fieldsWord, hbField_fieldsWord, skField_fieldsWord]
  | nop | fxToFix | fxToFlt | fxFromInt | fxAdd | fxSub | fxMul | fxDiv | fxInt | fxFrac
  | mapStep | mapCenter | mapOrigin | clamp | mapNeigh => rfl

/-- Settles O1: the word carries its command's opcode and no reserved bit, and its fields read back. -/
theorem decodeInvertsEncode : Obligations.DecodeInvertsEncode := by
  intro i hi
  obtain ⟨hop, hmask⟩ := encodesLegally i hi
  exact (decode_eq_ok_iff _ _).2 ⟨_, (opcodeOf_eq_some_iff _ _).1 hop, hmask, instr_encode hi⟩

/-- Settles O4: the eight words are the encodings of the eight commands. -/
theorem wordsWrittenFromTheEncodingDecode : Obligations.WordsWrittenFromTheEncodingDecode :=
  ⟨decodeInvertsEncode .nop rfl, decodeInvertsEncode (.bufCreate 1 3) rfl, decodeInvertsEncode (.bufRelease 15) rfl,
    decodeInvertsEncode .fxMul rfl, decodeInvertsEncode .mapNeigh rfl, decodeInvertsEncode (.blSample 5) rfl,
    decodeInvertsEncode (.nnScale 2 5 .rational) rfl, decodeInvertsEncode (.blScale 0 1 .float) rfl⟩

/-! ### Encoding a decoded command -/

/-- A field that lies inside a mask is 0 where the masked word is. -/
theorem extractLsb'_eq_zero_of_masked {w m : Word} (h : w &&& m = 0#32) (start len : Nat)
    (hm : m.extractLsb' start len = BitVec.allOnes len) : w.extractLsb' start len = 0#len := by
  simpa [BitVec.extractLsb'_and, hm] using congrArg (BitVec.extractLsb' start len) h

theorem digits_eq_zero_of_masked {w m : Word} (h : w &&& m = 0#32) (start len : Nat)
    (hm : m.extractLsb' start len = BitVec.allOnes len) : w.toNat / 2 ^ start % 2 ^ len = 0 := by
  simpa [BitVec.extractLsb'_toNat, Nat.shiftRight_eq_div_pow] using
    congrArg BitVec.toNat (extractLsb'_eq_zero_of_masked h start len hm)

/-- The word of opcode `c` with the fields that the format names taken from `w`, every other bit 0 (R102 to R105). -/
def Format.word (f : Format) (c : BitVec 8) (w : Word) : Word :=
  match f with
  | .n => fieldsWord c.toNat 0 0 0
  | .h => fieldsWord c.toNat (haField w).val 0 0
  | .c => fieldsWord c.toNat (haField w).val 0 (chField w)
  | .s => fieldsWord c.toNat (haField w).val (hbField w).val (skField w).bit

theorem encode_instr (op : Opcode) (w : Word) : encode (op.instr w) = op.format.word op.code w := by
  cases op <;> rfl

/-- A word without reserved bits is its opcode and the fields of its format: no bit is dropped. -/
theorem Format.word_opField {f : Format} {w : Word} (h : w &&& f.reservedMask = 0#32) : f.word (opField w) w = w := by
  have hw := w.isLt
  apply BitVec.eq_of_toNat_eq
  cases f with
  | n =>
    have := digits_eq_zero_of_masked h 8 24 (by decide)
    simp only [Format.word, fieldsWord_toNat, opField_toNat]
    omega
  | h =>
    have := digits_eq_zero_of_masked h 12 20 (by decide)
    simp only [Format.word, fieldsWord_toNat, opField_toNat, haField_val]
    omega
  | c =>
    have := digits_eq_zero_of_masked h 12 4 (by decide)
    have := digits_eq_zero_of_masked h 18 14 (by decide)
    simp only [Format.word, fieldsWord_toNat, opField_toNat, haField_val, chField_eq]
    omega
  | s =>
    have := digits_eq_zero_of_masked h 17 15 (by decide)
    simp only [Format.word, fieldsWord_toNat, opField_toNat, haField_val, hbField_val, skField_bit]
    omega

/-- A decoded channel field has two bits. -/
theorem instr_wellFormed (op : Opcode) (w : Word) : (op.instr w).WellFormed = true := by
  cases op with
  | bufCreate => exact decide_eq_true (BitVec.isLt _)
  | nop | bufRelease | fxToFix | fxToFlt | fxFromInt | fxAdd | fxSub | fxMul | fxDiv | fxInt | fxFrac
  | mapStep | mapCenter | mapOrigin | clamp | mapNeigh | nnSample | blSample | nnScale | blScale => rfl

/-- Settles O2: a legal word has its row's opcode and no reserved bit, so its opcode and fields are all of it. -/
theorem encodeInvertsDecode : Obligations.EncodeInvertsDecode := by
  intro w i h
  obtain ⟨op, hop, hmask, rfl⟩ := (decode_eq_ok_iff w i).1 h
  refine ⟨instr_wellFormed op w, ?_⟩
  calc encode (op.instr w) = op.format.word op.code w := encode_instr op w
    _ = op.format.word (opField w) w := by rw [hop]
    _ = w := Format.word_opField hmask

/-! ### The rows as masks and match words (R102 to R106) -/

/-- The opcodes in the order of R106. -/
def opcodes : List Opcode :=
  [.nop, .bufCreate, .bufRelease, .fxToFix, .fxToFlt, .fxFromInt, .fxAdd, .fxSub, .fxMul, .fxDiv, .fxInt, .fxFrac,
    .mapStep, .mapCenter, .mapOrigin, .clamp, .mapNeigh, .nnSample, .blSample, .nnScale, .blScale]

theorem mem_opcodes (op : Opcode) : op ∈ opcodes := by cases op <;> decide

theorem nodup_opcodes : opcodes.Nodup := by decide

/-- The match mask and the match word of a row: OP and the reserved bits, and the opcode with no other bit. -/
def Opcode.row (op : Opcode) : Word × Word := (op.format.reservedMask ||| 0xFF#32, op.code.setWidth 32)

theorem Opcode.row_fst (op : Opcode) : op.row.1 = op.format.reservedMask ||| 0xFF#32 := rfl

theorem opField_row_fst (op : Opcode) : opField op.row.1 = BitVec.allOnes 8 := by cases op <;> rfl

theorem opField_row_snd (op : Opcode) : opField op.row.2 = op.code := by cases op <;> rfl

theorem row_fst_and_reservedMask (op : Opcode) : op.row.1 &&& op.format.reservedMask = op.format.reservedMask := by
  cases op <;> rfl

theorem row_snd_and_reservedMask (op : Opcode) : op.row.2 &&& op.format.reservedMask = 0#32 := by cases op <;> rfl

theorem opField_and (v w : Word) : opField (v &&& w) = opField v &&& opField w := BitVec.extractLsb'_and

theorem and_opMask (w : Word) : w &&& 0xFF#32 = (opField w).setWidth 32 := by
  apply BitVec.eq_of_toNat_eq
  have hand : w.toNat &&& 255 = w.toNat % 256 := Nat.and_two_pow_sub_one_eq_mod w.toNat 8
  simp only [BitVec.toNat_and, BitVec.toNat_ofNat, BitVec.toNat_setWidth, opField_toNat, Nat.reducePow, Nat.reduceMod, hand]
  omega

/-- A word matches a row under its mask exactly where it has the row's OP and no bit its format reserves. -/
theorem and_row_iff (w : Word) (op : Opcode) :
    w &&& op.row.1 = op.row.2 ↔ opField w = op.code ∧ w &&& op.format.reservedMask = 0#32 := by
  constructor
  · intro h
    constructor
    · calc opField w = opField w &&& opField op.row.1 := by rw [opField_row_fst, BitVec.and_allOnes]
        _ = opField op.row.2 := by rw [← opField_and, h]
        _ = op.code := opField_row_snd op
    · calc w &&& op.format.reservedMask = (w &&& op.row.1) &&& op.format.reservedMask := by
            rw [BitVec.and_assoc, row_fst_and_reservedMask]
        _ = 0#32 := by rw [h, row_snd_and_reservedMask]
  · rintro ⟨hop, hmask⟩
    calc w &&& op.row.1 = (w &&& op.format.reservedMask) ||| (w &&& 0xFF#32) := by
          rw [Opcode.row_fst, BitVec.and_or_distrib_left]
      _ = op.row.2 := by rw [hmask, BitVec.zero_or, and_opMask, hop]; rfl

theorem isLegal_iff_exists_row (w : Word) :
    (∃ i, decode w = .ok i) ↔ ∃ r ∈ opcodes.map Opcode.row, w &&& r.1 = r.2 := by
  constructor
  · rintro ⟨i, hi⟩
    obtain ⟨op, hop, hmask, -⟩ := (decode_eq_ok_iff w i).1 hi
    exact ⟨op.row, List.mem_map_of_mem (mem_opcodes op), (and_row_iff w op).2 ⟨hop, hmask⟩⟩
  · rintro ⟨r, hr, h⟩
    obtain ⟨op, -, rfl⟩ := List.mem_map.1 hr
    obtain ⟨hop, hmask⟩ := (and_row_iff w op).1 h
    exact ⟨op.instr w, (decode_eq_ok_iff w _).2 ⟨op, hop, hmask, rfl⟩⟩

theorem opcodeOf_eq_of_row {w : Word} {op : Opcode} (h : w &&& op.row.1 = op.row.2) :
    opcodeOf (opField w) = some op :=
  (opcodeOf_eq_some_iff _ _).2 ((and_row_iff w op).1 h).1

/-- Every row that a word matches is the row of the opcode in its OP field. -/
theorem countP_row_le_one (w : Word) : (opcodes.map Opcode.row).countP (fun r => w &&& r.1 == r.2) ≤ 1 := by
  rw [List.countP_map]
  cases hop : opcodeOf (opField w) with
  | none =>
    have hnone : opcodes.countP ((fun r => w &&& r.1 == r.2) ∘ Opcode.row) = 0 :=
      List.countP_eq_zero.2 fun op _ h => by
        have := opcodeOf_eq_of_row (eq_of_beq h)
        simp [hop] at this
    omega
  | some op =>
    calc opcodes.countP _ ≤ opcodes.count op := List.countP_mono_left fun op' _ h =>
          beq_iff_eq.2 (Option.some.inj ((opcodeOf_eq_of_row (eq_of_beq h)).symm.trans hop))
      _ ≤ 1 := List.nodup_iff_count_le_one.1 nodup_opcodes op

/-- Settles O3: the 21 pairs are the rows of the 21 opcodes. -/
theorem legalWordsAreThoseThatMatchOneRow : Obligations.LegalWordsAreThoseThatMatchOneRow :=
  fun w => ⟨isLegal_iff_exists_row w, countP_row_le_one w⟩

end Sys2Proof
end

section
/-! PROOFS. The running word that decodes to no command, and the command that does nothing (R106, R107, R250, R298). -/

namespace Sys2Proof.Machine

theorem engineTurn_of_illegal {s : State} (h : ∀ i, decode s.lastCmd ≠ .ok i) :
    engineTurn s = .next { s with err := .illegalCommand, errSticky := true, busy := false } := by
  unfold engineTurn
  cases hdec : decode s.lastCmd with
  | error e => rw [raiseError_eq, completionFlags_error s (by decide)]
  | ok i => exact absurd hdec (h i)

/-- Settles O7: a step at the engine's turn is the engine's turn on the schedule's rest, with the same running word. -/
theorem illegalCommandOnlyReportsItsCode : Obligations.IllegalCommandOnlyReportsItsCode := by
  intro s h
  refine ⟨engineTurn_of_illegal h, fun hb hr hturn => ?_, rfl⟩
  have hpop : ∀ i, decode (popTurn s).lastCmd ≠ .ok i := h
  rw [step_of_engineMoves hb hr ((engineMoves_eq_true_iff s).2 hturn), engineTurn_of_illegal hpop]
  rfl

/-- Settles O29: a word that decodes to NOP is the word of NOP. -/
theorem nopOnlyCompletes : Obligations.NopOnlyCompletes := by
  refine ⟨fun w => ⟨fun h => ?_, ?_⟩, fun s => ?_⟩
  · exact (encodeInvertsDecode w .nop h).2.symm
  · rintro rfl
    exact decodeInvertsEncode .nop rfl
  · exact congrArg Host.Outcome.next (completionFlags_none s)

end Sys2Proof.Machine
end

section
/-! PROOFS. The pixel buffer commands: what allocation leaves in the state, the checks of `BUF_CREATE` in their order,
and the two commands' ends (R131, R132). -/

namespace Sys2Proof.Machine

/-! ### What allocation leaves (R131, R223) -/

/-- After an allocation the bytes of its region are 0, every other byte is as before. -/
theorem allocate_byte {s t : State} {h : Handle} {w ht k b : Nat} (ha : allocate s h w ht k b = some t) (a : Nat) :
    t.byte a = if b ≤ a ∧ a < b + w * ht * k then 0#8 else s.byte a := by
  obtain ⟨-, -, -, rfl⟩ := allocate_eq_some.1 ha
  exact byteAt_zeroFill s.resets s.mem b (w * ht * k) a

/-- Allocation changes the slots and pixel memory alone. -/
theorem allocate_frame {s t : State} {h : Handle} {w ht k b : Nat} (ha : allocate s h w ht k b = some t) :
    ∃ sl m, t = { s with slots := sl, mem := m } := by
  obtain ⟨-, -, -, rfl⟩ := allocate_eq_some.1 ha
  exact ⟨_, _, rfl⟩

/-- A pattern whose signed value is a natural number is that number's pattern (R8). -/
theorem ofNat_eq_of_toInt_eq {v : Word} {n : Nat} (h : v.toInt = n) : BitVec.ofNat 32 n = v := by
  rw [← BitVec.ofInt_natCast, ← h, BitVec.ofInt_toInt]

/-- A natural number's pattern (R8). -/
theorem enc32_natCast (n : Nat) : enc32 n = BitVec.ofNat 32 n := BitVec.ofInt_natCast 32 n

/-! ### The ends of a command, as the statements write them (R261, R262) -/

theorem raiseError_eq_failed (s : State) {c : ErrorCode} (hc : c ≠ .none) :
    raiseError s c = .next (Spec.failed s c) :=
  congrArg Host.Outcome.next (completionFlags_error s hc)

theorem commit_eq_next (s : State) : commit s = .next { s with err := .none, busy := false } :=
  congrArg Host.Outcome.next (completionFlags_none s)

theorem commitRes0_eq_next (s : State) (v : Word) :
    commitRes0 s v = .next { s with res0 := v, err := .none, busy := false } := commit_eq_next _

/-! ### BUF_CREATE: INVALID_PARAMETER before allocation (R131) -/

/-- Each of the three INVALID_PARAMETER checks stands before allocation. -/
theorem execBufCreate_of_invalid {s : State} {ha : Handle} {k : Nat}
    (h : (s.slot ha).valid = true ∨ s.latch.arg0.toInt ≤ 0 ∨ s.latch.arg1.toInt ≤ 0 ∨ (k ≠ 1 ∧ k ≠ 3)) :
    execBufCreate ha k s = .next (Spec.failed s .invalidParameter) := by
  rw [← raiseError_eq_failed s (by decide)]
  unfold execBufCreate
  split
  · rfl
  next hfree =>
  split
  · rfl
  next hsize =>
  rw [if_pos]
  obtain ⟨hw, hh⟩ := not_or.1 hsize
  obtain ⟨h1, h3⟩ := ((h.resolve_left hfree).resolve_left hw).resolve_left hh
  exact not_or.2 ⟨h1, h3⟩

/-- Past the INVALID_PARAMETER checks the command's end is allocation's: ALLOCATION_FAILURE, or the size in RES0. -/
theorem execBufCreate_of_valid {s : State} {ha : Handle} {k : Nat} (hfree : (s.slot ha).valid = false)
    (hw : 0 < s.latch.arg0.toInt) (hh : 0 < s.latch.arg1.toInt) (hk : k = 1 ∨ k = 3) :
    execBufCreate ha k s =
      (allocate s ha s.latch.arg0.toInt.toNat s.latch.arg1.toInt.toNat k s.latch.arg2.toNat).elim
        (.next (Spec.failed s .allocationFailure)) fun t => .next { t with
          res0 := BitVec.ofNat 32 (s.latch.arg0.toInt.toNat * s.latch.arg1.toInt.toNat * k)
          err := .none, busy := false } := by
  have hlive : ¬(s.slot ha).valid = true := by simp [hfree]
  have hsize : ¬(s32 s.latch.arg0 ≤ 0 ∨ s32 s.latch.arg1 ≤ 0) := not_or.2 ⟨not_le.2 hw, not_le.2 hh⟩
  rw [execBufCreate, if_neg hlive, if_neg hsize, if_neg (not_not.2 hk)]
  dsimp only [s32, u32]
  cases allocate s ha s.latch.arg0.toInt.toNat s.latch.arg1.toInt.toNat k s.latch.arg2.toNat with
  | none => exact raiseError_eq_failed s (by decide)
  | some t =>
    rw [← enc32_natCast]
    exact commitRes0_eq_next t _

/-- Settles O30: the checks pass, so allocation succeeds, and its slot holds the latched sizes and base. -/
theorem bufCreateMakesAZeroedBuffer : Obligations.BufCreateMakesAZeroedBuffer := by
  intro s ha k w h hfree hw hh hw1 hw2 hh1 hh2 hk hfit hover
  obtain ⟨u, hu⟩ : ∃ u, allocate s ha w h k s.latch.arg2.toNat = some u :=
    ⟨_, allocate_eq_some.2 ⟨⟨hw2, hh2⟩, hfit, not_overlapsLive.2 hover, rfl⟩⟩
  obtain ⟨hself, hother⟩ := allocate_slot hu
  have hexec := execBufCreate_of_valid hfree (by omega) (by omega) hk
  rw [hw, hh, Int.toNat_natCast, Int.toNat_natCast, hu] at hexec
  refine ⟨_, hexec, ?_, hother, fun a hin => ?_, fun a hout => ?_, ?_⟩
  · rwa [newSlot, ofNat_eq_of_toInt_eq hw, ofNat_eq_of_toInt_eq hh, BitVec.ofNat_toNat, BitVec.setWidth_eq] at hself
  · exact (allocate_byte hu a).trans (if_pos hin)
  · exact (allocate_byte hu a).trans (if_neg hout)
  · obtain ⟨sl, m, rfl⟩ := allocate_frame hu
    rfl

/-- Settles O31: an overlap with another live buffer is an overlap with a live one, so allocation fails in each case. -/
theorem bufCreateReportsTheFirstFailingCheck : Obligations.BufCreateReportsTheFirstFailingCheck := by
  intro s ha k w h b size
  refine ⟨execBufCreate_of_invalid, fun hfree hw hh hk hfail => ?_⟩
  have hnone : allocate s ha w.toNat h.toNat k b = none := by
    rw [allocate_eq_none, Config.maxDim]
    rcases hfail with hw' | hh' | hfit | ⟨j, -, hoverlap⟩
    · exact .inl (by omega)
    · exact .inr (.inl (by omega))
    · exact .inr (.inr (.inl hfit))
    · exact .inr (.inr (.inr ⟨j, hoverlap⟩))
  exact (execBufCreate_of_valid hfree hw hh hk).trans (congrArg (Option.elim · _ _) hnone)

/-! ### BUF_RELEASE (R132) -/

/-- The word of `BUF_RELEASE ha` (R103, R106). -/
theorem encode_bufRelease (ha : Handle) : encode (.bufRelease ha) = BitVec.ofNat 32 (0x02 + 256 * ha.val) := by
  rw [encode, fieldsWord, Nat.mul_comm ha.val]
  simp

theorem execBufRelease_of_live {s : State} {ha : Handle} (h : (s.slot ha).valid = true) :
    execBufRelease ha s = .next { setSlot s ha Slot.free with err := .none, busy := false } := by
  rw [execBufRelease, if_pos h, commit_eq_next]

theorem execBufRelease_of_free {s : State} {ha : Handle} (h : (s.slot ha).valid = false) :
    execBufRelease ha s = .next { s with err := .none, busy := false } := by
  rw [execBufRelease, if_neg (by simp [h]), commit_eq_next]

/-- Settles O32: on a live slot the command is one descriptor write, which leaves other slots and every byte. -/
theorem bufReleaseFreesTheSlot : Obligations.BufReleaseFreesTheSlot := by
  intro s ha
  refine ⟨?_, fun hlive => ?_, execBufRelease_of_free⟩
  · rw [← encode_bufRelease]
    exact decodeInvertsEncode (.bufRelease ha) rfl
  · exact ⟨_, execBufRelease_of_live hlive, setSlot_slot_self s ha Slot.free,
      fun j hj => setSlot_slot_ne s Slot.free hj, setSlot_byte s ha Slot.free, rfl⟩

end Sys2Proof.Machine
end

section
/-! PROOFS. The Q16.16 commands on integers: each ends with a result that is written where it fits INT32, or OVERFLOW, or
with one that always fits (R151, R154 to R160), and the incremental form of the origin-aligned coordinate (R182). -/

namespace Sys2Proof.Machine

/-! ### A range-checked result (R151) -/

theorem commitChecked_of_inInt32 (s : State) {r : Int} (h : InInt32 r) :
    commitChecked s r = .next { s with res0 := enc32 r, err := .none, busy := false } := by
  rw [commitChecked, if_pos h, commitRes0_eq_next]

theorem commitChecked_of_not_inInt32 (s : State) {r : Int} (h : ¬InInt32 r) :
    commitChecked s r = .next (Spec.failed s .overflow) := by
  rw [commitChecked, if_neg h, raiseError_eq_failed s (by decide)]

/-! ### The spec's rational formulas as integer divisions (R9, R158) -/

/-- `>>> 16` is the floor of the exact quotient by 2^16 (R9). -/
theorem floor_div_65536 (a : ℤ) : ⌊(a : ℚ) / 65536⌋ = shr16 a := Rat.floor_intCast_div_natCast a 65536

/-- Rounding an exact quotient by a natural number toward zero is integer division toward zero. -/
theorem roundToZero_div_natCast (a : ℤ) (d : ℕ) :
    (if 0 ≤ (a : ℚ) / d then ⌊(a : ℚ) / d⌋ else -⌊-((a : ℚ) / d)⌋) = a.tdiv d := by
  rcases le_or_gt 0 a with ha | ha
  · rw [if_pos (by positivity), Rat.floor_intCast_div_natCast, Int.tdiv_eq_ediv_of_nonneg ha]
  · have hneg : -⌊-((a : ℚ) / d)⌋ = a.tdiv d := by
      rw [← neg_div, ← Int.cast_neg, Rat.floor_intCast_div_natCast, ← Int.tdiv_eq_ediv_of_nonneg (by omega),
        Int.neg_tdiv, neg_neg]
    split
    next hq =>
      have hle : (a : ℚ) / d ≤ 0 := div_nonpos_of_nonpos_of_nonneg (by exact_mod_cast ha.le) (by positivity)
      have hzero : (a : ℚ) / d = 0 := le_antisymm hle hq
      rw [← hneg, hzero]
      rfl
    next => exact hneg

/-- The same for a divisor of either sign (R158). -/
theorem roundToZero_div (a b : ℤ) :
    (if 0 ≤ (a : ℚ) / b then ⌊(a : ℚ) / b⌋ else -⌊-((a : ℚ) / b)⌋) = a.tdiv b := by
  obtain ⟨d, rfl | rfl⟩ := b.eq_nat_or_neg
  · exact roundToZero_div_natCast a d
  · have hq : (a : ℚ) / (-(d : ℤ) : ℤ) = ((-a : ℤ) : ℚ) / d := by
      push_cast
      rw [div_neg, neg_div]
    rw [hq, roundToZero_div_natCast, Int.tdiv_neg, Int.neg_tdiv]

/-! ### Sums, products, quotients (R154 to R158) -/

/-- Settles O36: the product by 65536 fits INT32 exactly for these operands. -/
theorem fxFromIntScalesBy65536 : Obligations.FxFromIntScalesBy65536 := by
  refine ⟨decodeInvertsEncode .fxFromInt rfl, fun s => ?_⟩
  intro n
  have hfit : InInt32 (n * 65536) ↔ -32768 ≤ n ∧ n ≤ 32767 := by unfold InInt32; omega
  exact ⟨fun h => commitChecked_of_inInt32 s (hfit.2 h), fun h => commitChecked_of_not_inInt32 s (mt hfit.1 h)⟩

/-- The pattern of a sum is the sum of the patterns (R155). -/
theorem enc32_s32_add (a b : Word) : enc32 (s32 a + s32 b) = a + b := by
  simp only [enc32, s32, BitVec.ofInt_add, BitVec.ofInt_toInt]

/-- The pattern of a difference is the difference of the patterns (R156). -/
theorem enc32_s32_sub (a b : Word) : enc32 (s32 a - s32 b) = a - b := by
  simp only [enc32, s32, sub_eq_add_neg, BitVec.ofInt_add, BitVec.ofInt_neg, BitVec.ofInt_toInt]

/-- Settles O37: a range-checked result whose pattern is the sum of the patterns. -/
theorem fxAddIsExactOrOverflows : Obligations.FxAddIsExactOrOverflows := by
  refine ⟨decodeInvertsEncode .fxAdd rfl, fun s => ⟨fun h => ?_, commitChecked_of_not_inInt32 s⟩⟩
  rw [← enc32_s32_add]
  exact commitChecked_of_inInt32 s h

/-- Settles O38: a range-checked result whose pattern is the difference of the patterns. -/
theorem fxSubIsExactOrOverflows : Obligations.FxSubIsExactOrOverflows := by
  refine ⟨decodeInvertsEncode .fxSub rfl, fun s => ⟨fun h => ?_, commitChecked_of_not_inInt32 s⟩⟩
  rw [← enc32_s32_sub]
  exact commitChecked_of_inInt32 s h

/-- Settles O39: the range-checked result is the floor of the exact product over 65536. -/
theorem fxMulFloorsTheProduct : Obligations.FxMulFloorsTheProduct := by
  refine ⟨decodeInvertsEncode .fxMul rfl, fun s => ?_⟩
  intro r
  have hr : r = fxMulUnits s.latch.arg0 s.latch.arg1 := by
    rw [fxMulUnits, ← floor_div_65536, Int.cast_mul]
    rfl
  rw [hr]
  exact ⟨commitChecked_of_inInt32 s, commitChecked_of_not_inInt32 s⟩

theorem s32_eq_zero_iff (v : Word) : s32 v = 0 ↔ v = 0#32 := by
  rw [s32, ← BitVec.toInt_inj, BitVec.toInt_zero]

/-- Settles O40: past the divisor check the range-checked result is the exact quotient rounded toward zero. -/
theorem fxDivTruncatesTheQuotient : Obligations.FxDivTruncatesTheQuotient := by
  refine ⟨decodeInvertsEncode .fxDiv rfl, fun s => ?_⟩
  intro q r
  have hr : r = fxDivUnits s.latch.arg0 s.latch.arg1 := by
    rw [fxDivUnits, ← roundToZero_div, Int.cast_mul]
    rfl
  have hexec : s.latch.arg1 ≠ 0#32 → exec .fxDiv s = commitChecked s r := fun hd => by
    rw [hr]
    exact if_neg (mt (s32_eq_zero_iff _).1 hd)
  refine ⟨fun hd => ?_, fun hd h => ?_, fun hd h => ?_⟩
  · exact (if_pos ((s32_eq_zero_iff _).2 hd)).trans (raiseError_eq_failed s (by decide))
  · exact (hexec hd).trans (commitChecked_of_inInt32 s h)
  · exact (hexec hd).trans (commitChecked_of_not_inInt32 s h)

/-! ### The integer part and the fraction (R159, R160) -/

/-- The upper half, sign-extended, as a number (R159). -/
theorem toInt_signExtend_upperHalf (a : Word) : ((a.extractLsb' 16 16).signExtend 32).toInt = shr16 (s32 a) := by
  have := a.isLt
  rw [BitVec.toInt_signExtend_of_le (by decide), BitVec.toInt_eq_toNat_cond, BitVec.extractLsb'_toNat, shr16, s32,
    BitVec.toInt_eq_toNat_cond, Nat.shiftRight_eq_div_pow]
  split <;> split <;> omega

theorem enc32_shr16 (a : Word) : enc32 (shr16 (s32 a)) = (a.extractLsb' 16 16).signExtend 32 := by
  rw [← toInt_signExtend_upperHalf]
  exact enc32_s32 _

theorem fracBits_eq_ofNat (a : Word) : fracBits a = BitVec.ofNat 32 (a.toNat % 65536) := by
  rw [← fracBits_toNat, BitVec.ofNat_toNat, BitVec.setWidth_eq]

/-- The fraction as a signed number is the remainder of the signed value, which is never negative (R160). -/
theorem s32_fracBits (a : Word) : s32 (fracBits a) = s32 a % 65536 := by
  have hlt := fracBits_toNat a
  rw [← fracBits_eq_emod, s32, BitVec.toInt_eq_toNat_of_lt (by omega)]

theorem exec_fxInt (s : State) :
    exec .fxInt s = .next { s with
      res0 := (s.latch.arg0.extractLsb' 16 16).signExtend 32, err := .none, busy := false } := by
  rw [← enc32_shr16]
  exact commitRes0_eq_next s _

theorem exec_fxFrac (s : State) :
    exec .fxFrac s = .next { s with res0 := fracBits s.latch.arg0, err := .none, busy := false } :=
  commitRes0_eq_next s _

/-- Settles O41: the sign-extended upper half is the value shifted right by 16, which is the floor. -/
theorem fxIntIsTheFloor : Obligations.FxIntIsTheFloor :=
  ⟨decodeInvertsEncode .fxInt rfl, fun s =>
    ⟨exec_fxInt s, (toInt_signExtend_upperHalf _).trans (floor_div_65536 _).symm⟩⟩

/-- Settles O42: the fraction field is the remainder modulo 65536. -/
theorem fxFracIsTheLowHalf : Obligations.FxFracIsTheLowHalf := by
  refine ⟨decodeInvertsEncode .fxFrac rfl, fun s => ?_⟩
  have hval : (fracBits s.latch.arg0).toInt = s32 s.latch.arg0 % 65536 := s32_fracBits _
  rw [← fracBits_eq_ofNat, hval]
  exact ⟨exec_fxFrac s, Int.emod_nonneg _ (by decide), Int.emod_lt_of_pos _ (by decide)⟩

/-- Settles O43: quotient and remainder by 65536 give the value back. -/
theorem intAndFracGiveTheValueBack : Obligations.IntAndFracGiveTheValueBack := by
  intro s
  refine ⟨_, _, exec_fxInt s, exec_fxFrac s, ?_⟩
  have hint := toInt_signExtend_upperHalf s.latch.arg0
  have hfrac := s32_fracBits s.latch.arg0
  calc ((s.latch.arg0.extractLsb' 16 16).signExtend 32).toInt * 65536 + s32 (fracBits s.latch.arg0)
      = s32 s.latch.arg0 / 65536 * 65536 + s32 s.latch.arg0 % 65536 := by rw [hint, hfrac, shr16]
    _ = s32 s.latch.arg0 := Int.ediv_mul_add_emod _ _

/-! ### The incremental form of the origin-aligned coordinate (R182) -/

theorem exec_mapOrigin_of_valid {s : State} (h : ValidCoordStep (s32 s.latch.arg0) (s32 s.latch.arg1))
    (hfit : InInt32 (s32 s.latch.arg0 * s32 s.latch.arg1)) :
    exec .mapOrigin s = .next { s with
      res0 := enc32 (s32 s.latch.arg0 * s32 s.latch.arg1), err := .none, busy := false } :=
  (if_neg (not_not.2 h)).trans (commitChecked_of_inInt32 s hfit)

theorem exec_fxAdd_of_inInt32 {s : State} (h : InInt32 (s32 s.latch.arg0 + s32 s.latch.arg1)) :
    exec .fxAdd s = .next { s with
      res0 := enc32 (s32 s.latch.arg0 + s32 s.latch.arg1), err := .none, busy := false } :=
  commitChecked_of_inInt32 s h

theorem s32_add_one {v : Word} (h : s32 v < 2147483647) : s32 (v + 1#32) = s32 v + 1 := by
  have hv := s32_inInt32 v
  rw [← s32_enc32 (n := s32 v + 1) ⟨by omega, by omega⟩, ← enc32_s32_add]
  rfl

/-- Settles O47: `o * step` is between 0 and `(o + 1) * step`, so it reads back exactly from RES0, and adding the step to it
gives the product of `o + 1`. -/
theorem originCoordinatesAccumulate : Obligations.OriginCoordinatesAccumulate := by
  intro s o st ⟨ho, ho1, hst⟩ hmax
  have hnext : (o + 1) * st = o * st + st := by ring
  have hpos : 0 ≤ o * st := by positivity
  have hsucc : s32 (s.latch.arg0 + 1#32) = o + 1 := s32_add_one (show o < _ by omega)
  have hback : s32 (enc32 (o * st)) = o * st := s32_enc32 ⟨by omega, by omega⟩
  have ht := exec_mapOrigin_of_valid (s := s) ⟨ho, show o ≤ 32766 by omega, hst⟩
    (show InInt32 (o * st) from ⟨by omega, by omega⟩)
  have hu := exec_fxAdd_of_inInt32 (s := { s with latch := { s.latch with arg0 := enc32 (o * st) } })
    (show InInt32 (s32 (enc32 (o * st)) + st) by rw [hback]; exact ⟨by omega, by omega⟩)
  have hv := exec_mapOrigin_of_valid (s := { s with latch := { s.latch with arg0 := s.latch.arg0 + 1#32 } })
    (show ValidCoordStep (s32 (s.latch.arg0 + 1#32)) st by
      rw [hsucc]
      exact ⟨by omega, show o + 1 ≤ 32766 from ho1, hst⟩)
    (show InInt32 (s32 (s.latch.arg0 + 1#32) * st) by rw [hsucc]; exact ⟨by omega, by omega⟩)
  refine ⟨_, _, _, ht, hu, hv, congrArg enc32 ?_, rfl, rfl, rfl⟩
  show s32 (enc32 (o * st)) + st = s32 (s.latch.arg0 + 1#32) * st
  rw [hback, hsucc, hnext]

end Sys2Proof.Machine
end

section
/-! PROOFS. The binary32 commands. A finite pattern's value is a whole number of units of 2^-149, so that flooring a
binary32 value and rounding an integer down to one are both integer divisions by powers of two (R152, R153, R162, R163). -/

namespace Sys2Proof.Machine

/-! ### The exact value in units of 2^-149 (R162) -/

theorem f32Magnitude_eq_value (f : Word) :
    (f32Magnitude f : ℚ) / 2 ^ 149 =
      if f32Exponent f = 0 then (f32Fraction f : ℚ) / 2 ^ 149
      else ((2 ^ 23 + f32Fraction f : ℕ) : ℚ) * 2 ^ f32Exponent f / 2 ^ 150 := by
  unfold f32Magnitude
  split
  next => rfl
  next he =>
    obtain ⟨e, he'⟩ := Nat.exists_eq_succ_of_ne_zero he
    rw [he', Nat.succ_sub_one, Nat.succ_eq_add_one]
    push_cast
    ring

/-- The exact value of a pattern is its units over 2^149. -/
theorem f32Value_eq_units (f : Word) : Spec.f32Value f = (f32Units f : ℚ) / 2 ^ 149 := by
  rw [Spec.f32Value, ← f32Magnitude_eq_value, f32Units, f32Sign]
  split <;> push_cast <;> ring

/-- `FX_TOFIX`'s integer floor is the floor of the exact value times 65536 (R152). -/
theorem floor_f32Value_mul (f : Word) : ⌊Spec.f32Value f * 65536⌋ = f32Floor16 f := by
  have hq : Spec.f32Value f * 65536 = (f32Units f : ℚ) / (2 ^ 133 : ℕ) := by
    rw [f32Value_eq_units]
    push_cast
    ring
  rw [hq, Rat.floor_intCast_div_natCast, f32Floor16]
  norm_cast

theorem f32Value_le_iff_units (g : Word) (n : ℤ) :
    Spec.f32Value g ≤ (n : ℚ) / 65536 ↔ f32Units g ≤ n * 2 ^ 133 := by
  rw [f32Value_eq_units, div_le_div_iff₀ (by positivity) (by positivity), ← Int.cast_le (R := ℚ)]
  push_cast
  constructor <;> intro h <;> linarith

theorem f32Value_le_f32Value_iff (g f : Word) : Spec.f32Value g ≤ Spec.f32Value f ↔ f32Units g ≤ f32Units f := by
  rw [f32Value_eq_units, f32Value_eq_units, div_le_div_iff_of_pos_right (by positivity), Int.cast_le]

/-! ### FX_TOFIX (R152) -/

/-- A number: neither a NaN nor an infinity. -/
theorem exec_fxToFix_of_number {s : State} (hnan : ¬F32Nan s.latch.arg0) (hinf : ¬F32Inf s.latch.arg0) :
    exec .fxToFix s = commitChecked s (f32Floor16 s.latch.arg0) :=
  (if_neg hnan).trans (if_neg hinf)

/-- No infinity is a NaN. -/
theorem not_f32Nan_of_f32Inf {f : Word} (h : F32Inf f) : ¬F32Nan f := fun hnan => hnan.2 h.2

/-- Settles O33: past the two checks the range-checked result is the floor of the exact value times 65536. -/
theorem fxToFixFloorsTheFloat : Obligations.FxToFixFloorsTheFloat := by
  refine ⟨decodeInvertsEncode .fxToFix rfl, fun s => ?_⟩
  intro f r
  have hr : r = f32Floor16 f := floor_f32Value_mul f
  rw [hr]
  refine ⟨fun hnan => ?_, fun hinf => ?_, fun hnan hinf h => ?_, fun hnan hinf h => ?_⟩
  · exact (if_pos hnan).trans (raiseError_eq_failed s (by decide))
  · exact (if_neg (not_f32Nan_of_f32Inf hinf)).trans ((if_pos hinf).trans (raiseError_eq_failed s (by decide)))
  · exact (exec_fxToFix_of_number hnan hinf).trans (commitChecked_of_inInt32 s h)
  · exact (exec_fxToFix_of_number hnan hinf).trans (commitChecked_of_not_inInt32 s h)

/-! ### The pattern of a sign, an exponent and a significand (R162, R163) -/

theorem f32Exponent_eq (f : Word) : f32Exponent f = f.toNat / 8388608 % 256 := by
  simp [f32Exponent, BitVec.extractLsb'_toNat, Nat.shiftRight_eq_div_pow]

theorem f32Fraction_eq (f : Word) : f32Fraction f = f.toNat % 8388608 := by
  simp [f32Fraction, BitVec.extractLsb'_toNat]

theorem f32Sign_eq (f : Word) : f32Sign f = decide (2147483648 ≤ f.toNat) := by
  have := f.isLt
  rw [f32Sign, getLsbD_eq_decide]
  congr 1
  apply propext
  omega

/-- The pattern whose magnitude is `m * 2^e` units, for a significand `m` of 24 bits or one that rounding has carried to
2^24: the top bit of `m` adds to the exponent field, so that field is `e + 1`, or `e + 2` after a carry (R163). -/
abbrev f32Assembled (negative : Bool) (e m : Nat) : Word :=
  BitVec.ofNat 32 ((if negative then 2147483648 else 0) + e * 8388608 + m)

section
variable {e m : Nat} (he : e ≤ 252) (hm : 8388608 ≤ m) (hm' : m ≤ 16777216)
include he hm hm'

theorem f32Assembled_toNat (negative : Bool) :
    (f32Assembled negative e m).toNat = (if negative then 2147483648 else 0) + e * 8388608 + m := by
  rw [BitVec.toNat_ofNat]
  apply Nat.mod_eq_of_lt
  split <;> omega

theorem f32Sign_assembled (negative : Bool) : f32Sign (f32Assembled negative e m) = negative := by
  rw [f32Sign_eq, f32Assembled_toNat he hm hm']
  cases negative <;> simp <;> omega

/-- The exponent and the fraction field of an assembled pattern, also where the significand carried. -/
theorem f32Fields_assembled (negative : Bool) :
    f32Exponent (f32Assembled negative e m) = e + m / 8388608 ∧
      f32Fraction (f32Assembled negative e m) = m % 8388608 := by
  rw [f32Exponent_eq, f32Fraction_eq, f32Assembled_toNat he hm hm']
  split <;> omega

/-- An assembled pattern is a normal number. -/
theorem f32Exponent_assembled (negative : Bool) :
    1 ≤ f32Exponent (f32Assembled negative e m) ∧ f32Exponent (f32Assembled negative e m) ≤ 254 := by
  obtain ⟨hexp, -⟩ := f32Fields_assembled he hm hm' negative
  omega

/-- The magnitude of an assembled pattern is its significand scaled by its exponent. -/
theorem f32Magnitude_assembled (negative : Bool) : f32Magnitude (f32Assembled negative e m) = m * 2 ^ e := by
  obtain ⟨hexp, hfrac⟩ := f32Fields_assembled he hm hm' negative
  rw [f32Magnitude, if_neg (by omega), hexp, hfrac]
  rcases hm'.lt_or_eq with hlt | rfl
  · rw [show e + m / 8388608 - 1 = e by omega, show 8388608 + m % 8388608 = m by omega]
  · rw [show e + 16777216 / 8388608 - 1 = e + 1 from rfl, Nat.pow_succ]
    omega

theorem f32Units_assembled (negative : Bool) :
    f32Units (f32Assembled negative e m) = (if negative then -(m : ℤ) else m) * 2 ^ e := by
  rw [f32Units, f32Sign_assembled he hm hm', f32Magnitude_assembled he hm hm']
  cases negative <;> simp

end

/-! ### The significand of F32RDN (R163) -/

/-- A significand rounded at the top bit of its magnitude has 24 bits, or has carried to 2^24. -/
theorem f32Significand_bounds {mag top : Nat} (hle : 2 ^ top ≤ mag) (hlt : mag < 2 ^ (top + 1)) (up : Bool) :
    8388608 ≤ f32Significand mag top up ∧ f32Significand mag top up ≤ 16777216 := by
  unfold f32Significand
  split
  next htop =>
    have hlow : 2 ^ top * 2 ^ (23 - top) = 8388608 := by rw [← Nat.pow_add, Nat.add_sub_cancel' htop]
    have hhigh : 2 ^ (top + 1) * 2 ^ (23 - top) = 16777216 := by rw [Nat.pow_succ, Nat.mul_right_comm, hlow]
    exact ⟨hlow ▸ Nat.mul_le_mul_right _ hle, hhigh ▸ Nat.mul_le_mul_right _ hlt.le⟩
  next htop =>
    have hd : 0 < 2 ^ (top - 23) := Nat.two_pow_pos _
    have hlow : 2 ^ top = 8388608 * 2 ^ (top - 23) := by
      rw [show 8388608 = 2 ^ 23 from rfl, ← Nat.pow_add, Nat.add_sub_cancel' (Nat.le_of_not_le htop)]
    have hhigh : 2 ^ (top + 1) = 16777216 * 2 ^ (top - 23) := by rw [Nat.pow_succ, hlow]; omega
    split
    · rw [Nat.le_div_iff_mul_le hd, Nat.div_le_iff_le_mul_add_pred hd]
      omega
    · rw [Nat.le_div_iff_mul_le hd, Nat.div_le_iff_le_mul_add_pred hd]
      omega

/-- Rounding a magnitude up is flooring its negative. -/
theorem neg_ediv_eq_neg_roundUp (a : ℤ) {d : ℤ} (hd : 0 < d) : -a / d = -((a + (d - 1)) / d) := by
  have hlow := Int.ediv_mul_le (a + (d - 1)) hd.ne'
  have hhigh := Int.lt_ediv_add_one_mul_self (a + (d - 1)) hd
  rw [Int.ediv_eq_iff_of_pos hd]
  constructor <;> linarith

/-- The significand of `n` at the top bit `top`, with the sign of `n`. -/
def f32SignedSignificand (n : ℤ) (top : ℕ) : ℤ :=
  if n < 0 then -(f32Significand n.natAbs top true : ℤ) else f32Significand n.natAbs top false

/-- Both roundings of the magnitude are one rounding down of `n`, in units of the last bit of the significand. -/
theorem f32SignedSignificand_eq (n : ℤ) (top : ℕ) :
    f32SignedSignificand n top = if top ≤ 23 then n * 2 ^ (23 - top) else n / 2 ^ (top - 23) := by
  unfold f32SignedSignificand f32Significand
  by_cases htop : top ≤ 23
  · simp only [if_pos htop]
    push_cast
    split
    next hn => rw [abs_of_neg hn, neg_mul, neg_neg]
    next hn => rw [abs_of_nonneg (not_lt.1 hn)]
  · have hcast : ((2 ^ (top - 23) - 1 : ℕ) : ℤ) = 2 ^ (top - 23) - 1 := Nat.cast_pred (Nat.two_pow_pos _)
    simp only [if_neg htop, if_true, Bool.false_eq_true, if_false]
    push_cast [hcast]
    split
    next hn => rw [abs_of_neg hn, ← neg_ediv_eq_neg_roundUp _ (by positivity), neg_neg]
    next hn => rw [abs_of_nonneg (not_lt.1 hn)]

/-- The spacing of the 24-bit floats at the top bit of `n`, for `n` in units of 2^-16 and the spacing in units of 2^-149. -/
def f32Spacing (n : ℤ) : ℤ := 2 ^ (Nat.log2 n.natAbs + 110)

theorem f32Spacing_pos (n : ℤ) : 0 < f32Spacing n := by
  unfold f32Spacing
  positivity

/-- The significand counts spacings: it is `n` over the spacing, rounded down. -/
theorem f32SignedSignificand_log2 (n : ℤ) :
    f32SignedSignificand n (Nat.log2 n.natAbs) = n * 2 ^ 133 / f32Spacing n := by
  rw [f32SignedSignificand_eq, f32Spacing]
  generalize Nat.log2 n.natAbs = top
  split
  next htop =>
    have hscale : n * 2 ^ 133 = n * 2 ^ (23 - top) * 2 ^ (top + 110) := by
      rw [mul_assoc, ← pow_add, show 23 - top + (top + 110) = 133 by omega]
    rw [hscale, Int.mul_ediv_cancel _ (by positivity)]
  next htop =>
    have hscale : (2 : ℤ) ^ (top + 110) = 2 ^ (top - 23) * 2 ^ 133 := by
      rw [← pow_add, show top - 23 + 133 = top + 110 by omega]
    rw [hscale, Int.mul_ediv_mul_of_pos_left _ _ (by positivity)]

/-! ### F32RDN (R163) -/

theorem f32RoundDown_zero : f32RoundDown 0 = 0#32 := rfl

theorem f32Units_zero : f32Units 0#32 = 0 := by decide

theorem f32RoundDown_of_ne_zero {n : ℤ} (hn : n ≠ 0) :
    f32RoundDown n = f32Assembled (decide (n < 0)) (Nat.log2 n.natAbs + 110)
      (f32Significand n.natAbs (Nat.log2 n.natAbs) (decide (n < 0))) := by
  simp only [f32RoundDown, if_neg hn, f32Assembled, decide_eq_true_eq]

theorem log2_natAbs_le {n : ℤ} (hn : n ≠ 0) (h : InInt32 n) : Nat.log2 n.natAbs ≤ 31 :=
  Nat.le_of_lt_succ ((Nat.log2_lt (Int.natAbs_ne_zero.2 hn)).2 (by obtain ⟨h1, h2⟩ := h; omega))

theorem f32Significand_log2_bounds {n : ℤ} (hn : n ≠ 0) (up : Bool) :
    8388608 ≤ f32Significand n.natAbs (Nat.log2 n.natAbs) up ∧
      f32Significand n.natAbs (Nat.log2 n.natAbs) up ≤ 16777216 :=
  f32Significand_bounds (Nat.log2_self_le (Int.natAbs_ne_zero.2 hn)) Nat.lt_log2_self up

/-- `F32RDN` of a value that is not 0 is a normal number (R163). -/
theorem f32Exponent_roundDown {n : ℤ} (hn : n ≠ 0) (h : InInt32 n) :
    1 ≤ f32Exponent (f32RoundDown n) ∧ f32Exponent (f32RoundDown n) ≤ 254 := by
  obtain ⟨hlow, hhigh⟩ := f32Significand_log2_bounds hn (decide (n < 0))
  have htop := log2_natAbs_le hn h
  rw [f32RoundDown_of_ne_zero hn]
  exact f32Exponent_assembled (by omega) hlow hhigh _

/-- `F32RDN` is never a NaN or an infinity (R163). -/
theorem f32Exponent_roundDown_ne {n : ℤ} (h : InInt32 n) : f32Exponent (f32RoundDown n) ≠ 255 := by
  rcases eq_or_ne n 0 with rfl | hn
  · decide
  · obtain ⟨-, hle⟩ := f32Exponent_roundDown hn h
    omega

/-- The value of `F32RDN` is the largest multiple of the spacing that is not above the value rounded. -/
theorem f32Units_roundDown {n : ℤ} (h : InInt32 n) :
    f32Units (f32RoundDown n) = n * 2 ^ 133 / f32Spacing n * f32Spacing n := by
  rcases eq_or_ne n 0 with rfl | hn
  · rw [f32RoundDown_zero, f32Units_zero, zero_mul, Int.zero_ediv, zero_mul]
  · obtain ⟨hlow, hhigh⟩ := f32Significand_log2_bounds hn (decide (n < 0))
    have htop := log2_natAbs_le hn h
    rw [f32RoundDown_of_ne_zero hn, f32Units_assembled (by omega) hlow hhigh, ← f32SignedSignificand_log2,
      f32SignedSignificand, f32Spacing]
    by_cases hneg : n < 0 <;> simp [hneg]

/-- `F32RDN` is not above the value rounded (R163). -/
theorem f32Units_roundDown_le {n : ℤ} (h : InInt32 n) : f32Units (f32RoundDown n) ≤ n * 2 ^ 133 := by
  rw [f32Units_roundDown h]
  exact Int.ediv_mul_le _ (f32Spacing_pos n).ne'

/-- A binary32 value is a multiple of a power of two, or has its top bit below the 24 bits that start there. -/
theorem two_pow_dvd_f32Units_or_lt (g : Word) (k : ℕ) :
    (2 : ℤ) ^ k ∣ f32Units g ∨ |f32Units g| < 2 ^ 23 * 2 ^ k := by
  have habs : |f32Units g| = f32Magnitude g := by
    unfold f32Units
    split
    · rw [abs_neg, Nat.abs_cast]
    · rw [Nat.abs_cast]
  have hfrac : f32Fraction g < 8388608 := BitVec.isLt _
  rw [← dvd_abs, habs]
  norm_cast
  unfold f32Magnitude
  split
  next =>
    exact .inr (hfrac.trans_le (Nat.le_mul_of_pos_right _ (Nat.two_pow_pos k)))
  next =>
    rcases Nat.lt_or_ge (f32Exponent g - 1) k with hk | hk
    · right
      calc (8388608 + f32Fraction g) * 2 ^ (f32Exponent g - 1)
          < 2 ^ 24 * 2 ^ (f32Exponent g - 1) := Nat.mul_lt_mul_of_pos_right (by omega) (Nat.two_pow_pos _)
        _ = 2 ^ 23 * 2 ^ (f32Exponent g - 1 + 1) := by ring
        _ ≤ 2 ^ 23 * 2 ^ k := Nat.mul_le_mul_left _ (Nat.pow_le_pow_right (by decide) hk)
    · exact .inl ((Nat.pow_dvd_pow 2 hk).mul_left _)

/-- At its top bit a value has at least 2^23 spacings. -/
theorem spacing_le_abs {n : ℤ} (hn : n ≠ 0) : 2 ^ 23 * f32Spacing n ≤ |n * 2 ^ 133| := by
  have htop : (2 : ℤ) ^ Nat.log2 n.natAbs ≤ |n| := by
    rw [← Int.natCast_natAbs]
    exact_mod_cast Nat.log2_self_le (Int.natAbs_ne_zero.2 hn)
  calc 2 ^ 23 * f32Spacing n = 2 ^ Nat.log2 n.natAbs * 2 ^ 133 := by rw [f32Spacing]; ring
    _ ≤ |n| * 2 ^ 133 := by gcongr
    _ = |n * 2 ^ 133| := by rw [abs_mul, abs_of_nonneg (a := (2 : ℤ) ^ 133) (by positivity)]

/-- No value that is a multiple of the spacing `u`, or is below 2^23 spacings, lies above the rounding down of `x` to a
multiple of `u` and not above `x`, where `x` itself has 2^23 spacings. -/
theorem le_ediv_mul_of_le {u x y : ℤ} (hu : 0 < u) (hx : 2 ^ 23 * u ≤ |x|) (hy : u ∣ y ∨ |y| < 2 ^ 23 * u) (h : y ≤ x) :
    y ≤ x / u * u := by
  rcases hy with ⟨c, rfl⟩ | hy
  · rw [mul_comm u c] at h ⊢
    exact Int.mul_le_mul_of_nonneg_right (Int.le_ediv_of_mul_le hu h) hu.le
  · obtain ⟨hlow, hhigh⟩ := abs_lt.1 hy
    rcases abs_cases x with ⟨habs, -⟩ | ⟨habs, -⟩
    · have hq : 2 ^ 23 ≤ x / u := Int.le_ediv_of_mul_le hu (habs ▸ hx)
      exact hhigh.le.trans (Int.mul_le_mul_of_nonneg_right hq hu.le)
    · linarith

/-- No binary32 value between `F32RDN` and the value rounded (R163). -/
theorem f32Units_le_roundDown {n : ℤ} (h : InInt32 n) {g : Word} (hg : f32Units g ≤ n * 2 ^ 133) :
    f32Units g ≤ f32Units (f32RoundDown n) := by
  rcases eq_or_ne n 0 with rfl | hn
  · rwa [f32RoundDown_zero, f32Units_zero, ← zero_mul]
  · rw [f32Units_roundDown h]
    exact le_ediv_mul_of_le (f32Spacing_pos n) (spacing_le_abs hn) (two_pow_dvd_f32Units_or_lt g _) hg

/-- A magnitude of up to 24 bits is a binary32 value (R153). -/
theorem f32Units_roundDown_eq {n : ℤ} (hlow : -16777216 < n) (hhigh : n < 16777216) :
    f32Units (f32RoundDown n) = n * 2 ^ 133 := by
  have htop : Nat.log2 n.natAbs ≤ 23 := by
    rcases eq_or_ne n 0 with rfl | hn
    · decide
    · exact Nat.le_of_lt_succ ((Nat.log2_lt (Int.natAbs_ne_zero.2 hn)).2 (by omega))
  have hdvd : f32Spacing n ∣ n * 2 ^ 133 := (pow_dvd_pow 2 (by omega)).mul_left n
  rw [f32Units_roundDown ⟨by omega, by omega⟩, Int.ediv_mul_cancel hdvd]

/-! ### FX_TOFLT, and back (R153) -/

theorem exec_fxToFlt (s : State) :
    exec .fxToFlt s = .next { s with res0 := f32RoundDown (s32 s.latch.arg0), err := .none, busy := false } :=
  commitRes0_eq_next s _

/-- Settles O34: the result is the input rounded down to a multiple of the float spacing at its top bit. -/
theorem fxToFltIsTheLargestFloatNotAbove : Obligations.FxToFltIsTheLargestFloatNotAbove := by
  refine ⟨decodeInvertsEncode .fxToFlt rfl, fun s => ?_⟩
  have hin := s32_inInt32 s.latch.arg0
  refine ⟨_, exec_fxToFlt s, fun hz => ?_, fun hnz => ?_, ?_, fun g _ hg => ?_⟩
  · rw [hz]
    rfl
  · exact f32Exponent_roundDown (mt (s32_eq_zero_iff _).1 hnz) hin
  · exact (f32Value_le_iff_units _ _).2 (f32Units_roundDown_le hin)
  · exact (f32Value_le_f32Value_iff _ _).2 (f32Units_le_roundDown hin ((f32Value_le_iff_units _ _).1 hg))

theorem f32Floor16_roundDown_le {n : ℤ} (h : InInt32 n) : f32Floor16 (f32RoundDown n) ≤ n :=
  Int.ediv_le_of_le_mul (by positivity) (f32Units_roundDown_le h)

theorem f32Floor16_roundDown_eq {n : ℤ} (hlow : -16777216 < n) (hhigh : n < 16777216) :
    f32Floor16 (f32RoundDown n) = n := by
  rw [f32Floor16, f32Units_roundDown_eq hlow hhigh, Int.mul_ediv_cancel _ (by positivity)]

/-- Rounding down does not leave INT32: its least value is a binary32 value. -/
theorem inInt32_f32Floor16_roundDown {n : ℤ} (h : InInt32 n) : InInt32 (f32Floor16 (f32RoundDown n)) := by
  have hleast : f32Units (f32Assembled true 141 8388608) = -2147483648 * 2 ^ 133 := by
    rw [f32Units_assembled (by decide) (by decide) (by decide)]
    norm_num
  have hle : -2147483648 * 2 ^ 133 ≤ f32Units (f32RoundDown n) := by
    rw [← hleast]
    refine f32Units_le_roundDown h ?_
    rw [hleast]
    exact Int.mul_le_mul_of_nonneg_right h.1 (by positivity)
  exact ⟨Int.le_ediv_of_mul_le (by positivity) hle, (f32Floor16_roundDown_le h).trans h.2⟩

/-- `FX_TOFIX` of a rounded integer answers its floor without error: it is a number, with its floor in INT32. -/
theorem exec_fxToFix_of_roundDown {s : State} {n : ℤ} (h : InInt32 n) (hf : s.latch.arg0 = f32RoundDown n) :
    exec .fxToFix s = .next { s with res0 := enc32 (f32Floor16 (f32RoundDown n)), err := .none, busy := false } := by
  have hexp := f32Exponent_roundDown_ne h
  rw [← hf] at hexp ⊢
  refine (exec_fxToFix_of_number (fun hnan => hexp hnan.1) (fun hinf => hexp hinf.1)).trans ?_
  exact commitChecked_of_inInt32 s (hf ▸ inInt32_f32Floor16_roundDown h)

/-- Settles O35: the way back is a floor, which never rises, and is exact for a magnitude of up to 24 bits. -/
theorem floatRoundTripNeverRises : Obligations.FloatRoundTripNeverRises := by
  intro s t ht
  obtain rfl := Host.Outcome.next.inj ((exec_fxToFlt s).symm.trans ht)
  have hin := s32_inInt32 s.latch.arg0
  refine ⟨_, exec_fxToFix_of_roundDown hin rfl, rfl, ?_, fun ⟨hlow, hhigh⟩ => ?_⟩
  · calc s32 (enc32 (f32Floor16 (f32RoundDown (s32 s.latch.arg0))))
        = f32Floor16 (f32RoundDown (s32 s.latch.arg0)) := s32_enc32 (inInt32_f32Floor16_roundDown hin)
      _ ≤ s32 s.latch.arg0 := f32Floor16_roundDown_le hin
  · calc enc32 (f32Floor16 (f32RoundDown (s32 s.latch.arg0)))
        = enc32 (s32 s.latch.arg0) := congrArg enc32 (f32Floor16_roundDown_eq hlow hhigh)
      _ = s.latch.arg0 := enc32_s32 _

end Sys2Proof.Machine
end

section
/-! PROOFS. The coordinate mapper: the spec's floors as the machine's integer functions, the range of the coordinates of
a frame, and the mapper commands with their operand checks (R180 to R186). -/

namespace Sys2Proof.Machine

/-! ### The step (R180) -/

/-- `STEP` is the floor of the exact quotient. -/
theorem floor_step (i : ℤ) {o : ℤ} (ho : 1 ≤ o) : ⌊(i * 65536 : ℚ) / o⌋ = stepUnits i o := by
  lift o to ℕ using by omega
  exact_mod_cast Rat.floor_intCast_div_natCast (i * 65536) o

/-- `STEP` is FXDIV of the two sizes as Q16.16 numbers. -/
theorem fxDivUnits_eq_stepUnits {i o : ℤ} (hi : 0 ≤ i ∧ i ≤ 32767) (ho : 0 ≤ o ∧ o ≤ 32767) :
    fxDivUnits (enc32 (i * 65536)) (enc32 (o * 65536)) = stepUnits i o := by
  rw [fxDivUnits, s32_enc32 ⟨by omega, by omega⟩, s32_enc32 ⟨by omega, by omega⟩,
    Int.tdiv_eq_ediv_of_nonneg (by omega), Int.mul_ediv_mul_of_pos_left _ _ (by decide), stepUnits]

theorem one_le_stepUnits {i n : ℤ} (hi : 1 ≤ i) (hn : 1 ≤ n) (hn' : n ≤ 32767) : 1 ≤ stepUnits i n :=
  Int.le_ediv_of_mul_le (by omega) (by omega)

/-! ### The coordinates of a frame (R181, R182, R186) -/

/-- The product of `CENTER` is the floor of the exact one. -/
theorem floor_centerProduct (o st : ℤ) :
    ⌊((o * 65536 + 32768) * st : ℚ) / 65536⌋ = centerProduct o st := by
  exact_mod_cast floor_div_65536 ((o * 65536 + 32768) * st)

section
variable {i n o : ℤ} (hi : 1 ≤ i) (hn : 1 ≤ n) (hn' : n ≤ 32767) (ho : 0 ≤ o) (hon : o < n)
include hi hn hn' hon

/-- One step past an output coordinate is still inside the source. -/
theorem succ_mul_stepUnits_le : (o + 1) * stepUnits i n ≤ i * 65536 := by
  have hpos := one_le_stepUnits hi hn hn'
  calc (o + 1) * stepUnits i n ≤ n * stepUnits i n := Int.mul_le_mul_of_nonneg_right hon (by omega)
    _ ≤ i * 65536 := Int.mul_ediv_self_le (by omega)

include ho

/-- The product of `CENTER` lies half a step before the one a step further on. -/
theorem centerProduct_bounds :
    0 ≤ centerProduct o (stepUnits i n) ∧ centerProduct o (stepUnits i n) < i * 65536 := by
  have hpos := one_le_stepUnits hi hn hn'
  have hend := succ_mul_stepUnits_le hi hn hn' hon
  exact ⟨Int.ediv_nonneg (by positivity) (by decide), Int.ediv_lt_of_lt_mul (by decide) (by linarith)⟩

theorem originCoord_bounds :
    0 ≤ originCoord o (stepUnits i n) ∧ originCoord o (stepUnits i n) < i * 65536 := by
  have hpos := one_le_stepUnits hi hn hn'
  have hend := succ_mul_stepUnits_le hi hn hn' hon
  unfold originCoord
  exact ⟨by positivity, by linarith⟩

end

/-- Settles O50: both coordinates are at most what `n` steps give, and `n` steps do not exceed the source. -/
theorem frameCoordinatesStayInRange : Obligations.FrameCoordinatesStayInRange := by
  intro i n o hi hi' hn hn' ho
  have hi1 : (1 : ℤ) ≤ i := by omega
  have hn1 : (1 : ℤ) ≤ n := by omega
  have hpos := one_le_stepUnits hi1 hn1 (by omega)
  have hmax : stepUnits i n ≤ i * 65536 := Int.ediv_le_self _ (by omega)
  obtain ⟨hc, hc'⟩ := centerProduct_bounds hi1 hn1 (by omega) (Int.natCast_nonneg o) (by omega)
  obtain ⟨ho, ho'⟩ := originCoord_bounds hi1 hn1 (by omega) (Int.natCast_nonneg o) (by omega)
  simp only [srcCoord, centerCoord]
  exact ⟨hpos, by omega, by omega, by omega, by omega, ho, ho'⟩

/-! ### The commands -/

/-- Settles O44: past the size check the result is the step, which is the floor of the exact quotient. -/
theorem mapStepIsTheFlooredRatio : Obligations.MapStepIsTheFlooredRatio := by
  refine ⟨decodeInvertsEncode .mapStep rfl, fun s => ?_⟩
  intro i o r
  have hcheck : ValidSize i ∧ ValidSize o ↔ 1 ≤ i ∧ i ≤ 32767 ∧ 1 ≤ o ∧ o ≤ 32767 := and_assoc
  rw [← hcheck]
  refine ⟨fun h => ?_, fun h => (if_pos h).trans (raiseError_eq_failed s (by decide))⟩
  obtain ⟨hi, hi', ho, ho'⟩ := hcheck.1 h
  have hr : r = stepUnits i o := floor_step i ho
  rw [hr]
  exact ⟨(if_neg (not_not.2 h)).trans (commitRes0_eq_next s _),
    fxDivUnits_eq_stepUnits ⟨by omega, hi'⟩ ⟨by omega, ho'⟩⟩

/-- Settles O45: past the operand check the range check is on the floored product. -/
theorem mapCenterFollowsItsFormula : Obligations.MapCenterFollowsItsFormula := by
  refine ⟨decodeInvertsEncode .mapCenter rfl, fun s => ?_⟩
  intro o st m
  have hm : m = centerProduct o st := floor_centerProduct o st
  rw [hm]
  refine ⟨fun hvalid hfit => ?_, fun hvalid hfit => ?_, fun hinvalid => ?_⟩
  · calc exec .mapCenter s = commitRes0 s (enc32 (centerCoord o st)) :=
          (if_neg (not_not.2 hvalid)).trans (if_neg (not_not.2 hfit))
      _ = _ := commitRes0_eq_next s _
  · calc exec .mapCenter s = raiseError s .overflow := (if_neg (not_not.2 hvalid)).trans (if_pos hfit)
      _ = _ := raiseError_eq_failed s (by decide)
  · exact (if_pos hinvalid).trans (raiseError_eq_failed s (by decide))

/-- Settles O46: the product of valid operands is not negative, so INT32 bounds it from above alone. -/
theorem mapOriginIsTheExactProduct : Obligations.MapOriginIsTheExactProduct := by
  refine ⟨decodeInvertsEncode .mapOrigin rfl, fun s => ?_⟩
  intro o st
  refine ⟨fun hvalid hle => ?_, fun hvalid hgt => ?_, fun hinvalid => ?_⟩
  · have ⟨ho, _, hst⟩ := hvalid
    have hpos : 0 ≤ o * st := by positivity
    exact exec_mapOrigin_of_valid hvalid ⟨show -2147483648 ≤ o * st by omega, hle⟩
  · exact (if_neg (not_not.2 hvalid)).trans (commitChecked_of_not_inInt32 s fun hfit => not_le.2 hgt hfit.2)
  · exact (if_pos hinvalid).trans (raiseError_eq_failed s (by decide))

/-- Settles O48: past the size check the clamp is a minimum and a maximum. -/
theorem clampKeepsTheIndexInside : Obligations.ClampKeepsTheIndexInside := by
  refine ⟨decodeInvertsEncode .clamp rfl, fun s => ?_⟩
  intro i n
  refine ⟨fun h => ?_, fun h => (if_pos h).trans (raiseError_eq_failed s (by decide))⟩
  rw [← clampIdx_eq i n h.1]
  exact (if_neg (not_not.2 h)).trans (commitRes0_eq_next s _)

/-- Settles O49: past the size check the two neighbours are the clamped floor and its successor. -/
theorem mapNeighSplitsTheCoordinate : Obligations.MapNeighSplitsTheCoordinate := by
  refine ⟨decodeInvertsEncode .mapNeigh rfl, fun s => ?_⟩
  intro i n
  have hi : i = shr16 (s32 s.latch.arg0) := floor_div_65536 _
  refine ⟨fun h => ?_, fun h => (if_pos h).trans (raiseError_eq_failed s (by decide))⟩
  rw [hi, ← clampIdx_eq _ n h.1, ← clampIdx_eq _ n h.1, ← fracBits_eq_ofNat]
  exact (if_neg (not_not.2 h)).trans (commit_eq_next _)

end Sys2Proof.Machine
end

section
/-! PROOFS. The spec's formulas of the kernels and of the frame sizes, on exact rationals, as the machine's integer
functions (R183 to R185, R200 to R203, R220 to R222). -/

namespace Sys2Proof.Machine

/-! ### Source coordinates and indices (R183 to R185) -/

theorem step_eq_stepUnits (i : ℕ) {n : ℕ} (hn : 1 ≤ n) : Spec.step i n = stepUnits i n :=
  floor_step i (by omega)

theorem src_eq_srcCoord (o i : ℕ) {n : ℕ} (hn : 1 ≤ n) (mode : MapMode) :
    Spec.src o i n mode = srcCoord o i n mode := by
  cases mode with
  | center =>
    simp only [Spec.src, step_eq_stepUnits i hn, srcCoord, centerCoord, ← floor_centerProduct]
    push_cast
    rfl
  | origin => simp only [Spec.src, step_eq_stepUnits i hn, srcCoord, originCoord]

/-- The coordinates of a frame survive their encoding: they stay in INT32 (R186). -/
theorem s32_enc32_srcCoord {o i n : ℕ} (hi : 1 ≤ i ∧ i ≤ 32767) (hn : n ≤ 32767) (ho : o < n) (mode : MapMode) :
    s32 (enc32 (srcCoord o i n mode)) = Spec.src o i n mode := by
  obtain ⟨-, -, hc, hc', -, ho0, ho'⟩ := frameCoordinatesStayInRange i n o hi.1 hi.2 (by omega) hn ho
  rw [src_eq_srcCoord o i (by omega), s32_enc32]
  cases mode with
  | center => exact ⟨by omega, by omega⟩
  | origin => exact ⟨by omega, by omega⟩

theorem index_eq_clampIdx (v d : ℤ) {n : ℕ} (hn : 1 ≤ n) : Spec.index v d n = (clampIdx (shr16 v + d) n).toNat := by
  rw [Spec.index, floor_div_65536, clampIdx_eq _ _ (by omega)]

/-! ### Kernels (R201, R203) -/

theorem pix_eq_paddr (rd : Nat → Byte) (d : Slot) (x y c : Nat) :
    Spec.pix rd d x y c = (rd (paddr d x y c)).toNat := rfl

theorem blend_eq_bilinearSum (p00 p01 p10 p11 : ℕ) (dx dy : ℤ) :
    Spec.blend p00 p01 p10 p11 dx dy = bilinearSum p00 p01 p10 p11 dx dy := by
  have hw : ⌊(dx * dy : ℚ) / 65536⌋ = shr16 (dx * dy) := by exact_mod_cast floor_div_65536 (dx * dy)
  rw [Spec.blend, bilinearSum, hw]

/-- The blend's integer part, clamped, is a byte (R203). -/
theorem toNat_ofInt_clampInt (v : ℤ) : (BitVec.ofInt 8 (clampInt v 0 255)).toNat = (max 0 (min v 255)).toNat := by
  have hclamp : clampInt v 0 255 = max 0 (min v 255) := clampIdx_eq v 256 (by decide)
  rw [hclamp, BitVec.toNat_ofInt]
  omega

/-- A kernel as the spec writes it: coordinates and samples are numbers (R201, R203). -/
abbrev SpecKernel := (ℕ → Byte) → Slot → ℤ → ℤ → ℕ → ℕ

/-- The kernel is the spec's function `V` of the same pixels and of the coordinates as numbers, wherever the source has
pixels. -/
def Computes (K : Kernel) (V : SpecKernel) : Prop :=
  ∀ (rd : ℕ → Byte) (d : Slot) (sx sy : Word) (c : ℕ), 1 ≤ d.width.toNat → 1 ≤ d.height.toNat →
    (K rd d sx sy c).toNat = V rd d (s32 sx) (s32 sy) c

theorem nnValue_computes : Computes nnValue Spec.nn := by
  intro rd d sx sy c hw hh
  simp only [Spec.nn, pix_eq_paddr, index_eq_clampIdx _ _ hw, index_eq_clampIdx _ _ hh, add_zero, nnValue]

theorem blValue_computes : Computes blValue Spec.bl := by
  intro rd d sx sy c hw hh
  simp only [Spec.bl, pix_eq_paddr, index_eq_clampIdx _ _ hw, index_eq_clampIdx _ _ hh, add_zero, blend_eq_bilinearSum,
    floor_div_65536, blValue, toNat_ofInt_clampInt, neighLo, neighHi, u32, fracBits_eq_emod]

/-! ### Scales and sizes (R220 to R222) -/

/-- The exact value of a scale. -/
def Ratio.value (r : Ratio) : ℚ := (r.num : ℚ) / r.den

theorem outDim_value (n : ℕ) (r : Ratio) : Spec.outDim n r.value = outDim n r := by
  have hfloor : ⌊(n : ℚ) * r.value⌋ = (n * r.num / r.den : ℕ) := by
    rw [Ratio.value, ← mul_div_assoc]
    exact_mod_cast Rat.floor_natCast_div_natCast (n * r.num) r.den
  rw [Spec.outDim, hfloor, Int.toNat_natCast, outDim]

theorem natCast_toNat {n : ℤ} (h : 0 < n) : (n.toNat : ℚ) = n := by
  exact_mod_cast Int.toNat_of_nonneg h.le

theorem scaleValue_float_eq_some_iff {a0 a1 : Word} {r : Ratio} :
    scaleValue .float a0 a1 = some r ↔
      ¬F32Nan a0 ∧ ¬F32Inf a0 ∧ 0 < f32Units a0 ∧ r = ⟨(f32Units a0).toNat, 2 ^ 149⟩ := by
  simp only [scaleValue]
  split
  next hbad =>
    simp only [reduceCtorEq, false_iff]
    exact fun ⟨hnan, hinf, _⟩ => hbad.elim hnan hinf
  next hnum =>
    obtain ⟨hnan, hinf⟩ := not_or.1 hnum
    split
    next hle => simp [not_lt.2 hle]
    next hpos => simp [hnan, hinf, not_le.1 hpos, eq_comm]

theorem scaleValue_rational_eq_some_iff {a0 a1 : Word} {r : Ratio} :
    scaleValue .rational a0 a1 = some r ↔
      0 < s32 a0 ∧ 0 < s32 a1 ∧ r = ⟨(s32 a0).toNat, (s32 a1).toNat⟩ := by
  simp only [scaleValue]
  split
  next hbad =>
    simp only [reduceCtorEq, false_iff]
    exact fun ⟨hnum, hden, _⟩ => hbad.elim (not_le.2 hnum) (not_le.2 hden)
  next hpos =>
    obtain ⟨hnum, hden⟩ := not_or.1 hpos
    simp [not_le.1 hnum, not_le.1 hden, eq_comm]

theorem f32Value_pos_iff (f : Word) : 0 < Spec.f32Value f ↔ 0 < f32Units f := by
  rw [f32Value_eq_units, div_pos_iff_of_pos_right (by positivity), Int.cast_pos]

/-- A positive binary32 value as a ratio (R221). -/
theorem f32Value_eq_ratio {f : Word} (h : 0 < f32Units f) :
    Spec.f32Value f = Ratio.value ⟨(f32Units f).toNat, 2 ^ 149⟩ := by
  rw [f32Value_eq_units, Ratio.value, natCast_toNat h]
  push_cast
  rfl

/-- `SCALEVAL` answers exactly the scales the spec calls valid, with their value (R220, R221). -/
theorem isScale_iff (sk : ScaleKind) (a0 a1 : Word) (q : ℚ) :
    Spec.IsScale sk a0 a1 q ↔ ∃ r, scaleValue sk a0 a1 = some r ∧ q = r.value := by
  cases sk with
  | float =>
    simp only [scaleValue_float_eq_some_iff]
    constructor
    · rintro ⟨hnan, hinf, rfl, hpos⟩
      rw [f32Value_pos_iff] at hpos
      exact ⟨_, ⟨hnan, hinf, hpos, rfl⟩, f32Value_eq_ratio hpos⟩
    · rintro ⟨r, ⟨hnan, hinf, hpos, rfl⟩, rfl⟩
      rw [← f32Value_eq_ratio hpos]
      exact ⟨hnan, hinf, rfl, (f32Value_pos_iff a0).2 hpos⟩
  | rational =>
    have hvalue : ∀ {m n : ℤ}, 0 < m → 0 < n → Ratio.value ⟨m.toNat, n.toNat⟩ = (m : ℚ) / n := fun hm hn => by
      rw [Ratio.value, natCast_toNat hm, natCast_toNat hn]
    simp only [scaleValue_rational_eq_some_iff]
    constructor
    · rintro ⟨hnum, hden, rfl⟩
      exact ⟨_, ⟨hnum, hden, rfl⟩, (hvalue hnum hden).symm⟩
    · rintro ⟨r, ⟨hnum, hden, rfl⟩, rfl⟩
      exact ⟨hnum, hden, hvalue hnum hden⟩

end Sys2Proof.Machine
end

section
/-! PROOFS. The frame commands: past their checks they allocate the output and run the frame loop, which leaves the
kernel's value at every sample of the output and every other byte as before (R223 to R226). -/

namespace Sys2Proof.Machine

/-! ### The frame loop of a state (R224) -/

/-- Every sample of the destination ends with the kernel's value on the memory before the loop. -/
theorem frame_byte_paddr {K : Kernel} {s : State} {hs hd : Handle} (hK : ReadsOnly K (s.slot hs))
    (hch : (s.slot hd).ch = (s.slot hs).ch) (hap : Apart (s.slot hs) (s.slot hd)) {x y c : Nat}
    (hp : (s.slot hd).Sample (x, y, c)) :
    (frame K s hs hd).byte (paddr (s.slot hd) x y c) =
      frameValue K (s.slot hs) (s.slot hd) s.latch.mapMode s.byte (x, y, c) :=
  byteAt_of_read? (frameLoop_read?_of_mem hK hch hap (fun _ h => mem_rowMajor.1 h) s.mem (mem_rowMajor.2 hp)) _

/-- The loop leaves every byte outside the destination. -/
theorem frame_byte_of_outside (K : Kernel) (s : State) (hs hd : Handle) {a : Nat}
    (ha : ¬((s.slot hd).base.toNat ≤ a ∧ a < (s.slot hd).base.toNat + slotSize (s.slot hd))) :
    (frame K s hs hd).byte a = s.byte a := by
  have hne : ∀ p ∈ rowMajor (s.slot hd).width.toNat (s.slot hd).height.toNat (s.slot hd).ch.toNat,
      paddr (s.slot hd) p.1 p.2.1 p.2.2 ≠ a := by
    rintro ⟨x, y, c⟩ hp rfl
    obtain ⟨hx, hy, hc⟩ := mem_rowMajor.1 hp
    exact ha ⟨base_le_paddr .., paddr_lt hx hy hc⟩
  unfold State.byte byteAt frame
  rw [setMem_mem, frameLoop_read?_of_ne _ _ _ _ _ _ _ _ hne]
  rfl

/-- The kernel's value at one sample of an output is the spec's, at the spec's source coordinate (R185). -/
theorem frameValue_toNat {K : Kernel} {V : SpecKernel} (hV : Computes K V) {p : ℕ} {src dst : Slot}
    (hsrc : SoundSlot p src) (hw : dst.width.toNat ≤ 32767) (hh : dst.height.toNat ≤ 32767) {x y c : ℕ}
    (hx : x < dst.width.toNat) (hy : y < dst.height.toNat) (mode : MapMode) (rd : ℕ → Byte) :
    (frameValue K src dst mode rd (x, y, c)).toNat =
      V rd src (Spec.src x src.width.toNat dst.width.toNat mode)
        (Spec.src y src.height.toNat dst.height.toNat mode) c := by
  obtain ⟨-, hw1, hw2, hh1, hh2, -⟩ := hsrc
  rw [frameValue, hV _ _ _ _ _ hw1 hh1, s32_enc32_srcCoord ⟨hw1, hw2⟩ hw hx, s32_enc32_srcCoord ⟨hh1, hh2⟩ hh hy]

/-! ### The loop after an allocation (R223, R224) -/

/-- The descriptor of an output: the format `ch`, the size `w` by `ht`, the base as latched. -/
abbrev outSlot (ch : BitVec 2) (w ht : Nat) (base : Word) : Slot :=
  ⟨true, ch, BitVec.ofNat 32 w, BitVec.ofNat 32 ht, base⟩

theorem newSlot_eq_outSlot (w ht : Nat) (ch : BitVec 2) (base : Word) :
    newSlot w ht ch.toNat base.toNat = outSlot ch w ht base := by
  rw [newSlot, BitVec.ofNat_toNat, BitVec.setWidth_eq, BitVec.ofNat_toNat, BitVec.setWidth_eq]

section
variable {w ht : Nat} (ch : BitVec 2) (base : Word)

theorem outSlot_width (hw : w ≤ 32767) : (outSlot ch w ht base).width.toNat = w := u32_ofNat (by omega)

theorem outSlot_height (hht : ht ≤ 32767) : (outSlot ch w ht base).height.toNat = ht := u32_ofNat (by omega)

theorem slotSize_outSlot (hw : w ≤ 32767) (hht : ht ≤ 32767) :
    slotSize (outSlot ch w ht base) = w * ht * ch.toNat := by
  rw [slotSize, outSlot_width ch base hw, outSlot_height ch base hht]

theorem paddr_outSlot (hw : w ≤ 32767) (x y c : Nat) :
    paddr (outSlot ch w ht base) x y c = base.toNat + (y * w + x) * ch.toNat + c := by
  rw [paddr, outSlot_width ch base hw]

end

section
variable {s u : State} {hs hd : Handle} {w ht : Nat} {ch : BitVec 2} {base : Word}
  (hu : allocate s hd w ht ch.toNat base.toNat = some u)
include hu

theorem allocate_size_le : w ≤ 32767 ∧ ht ≤ 32767 := (allocate_eq_some.1 hu).1

theorem allocate_outSlot : u.slot hd = outSlot ch w ht base :=
  (allocate_slot hu).1.trans (newSlot_eq_outSlot w ht ch base)

/-- A live buffer has no byte of the allocated region. -/
theorem allocate_apart (hlive : (s.slot hs).valid = true) : Apart (s.slot hs) (outSlot ch w ht base) := by
  obtain ⟨hw, hht⟩ := allocate_size_le hu
  obtain ⟨-, -, hover, -⟩ := allocate_eq_some.1 hu
  rw [Apart, slotSize_outSlot ch base hw hht]
  exact not_overlapsLive.1 hover hs hlive

/-- The zero fill leaves the bytes of a live buffer. -/
theorem allocate_byte_of_live (hlive : (s.slot hs).valid = true) {a : Nat} (hlo : (s.slot hs).base.toNat ≤ a)
    (hhi : a < (s.slot hs).base.toNat + slotSize (s.slot hs)) : u.byte a = s.byte a := by
  obtain ⟨-, -, hover, -⟩ := allocate_eq_some.1 hu
  have hapart := not_overlapsLive.1 hover hs hlive
  exact (allocate_byte hu a).trans (if_neg (by omega))

/-- The bytes outside the allocated region are still those from before the allocation. -/
theorem frame_byte_of_allocate_outside (K : Kernel) {a : Nat}
    (ha : ¬(base.toNat ≤ a ∧ a < base.toNat + w * ht * ch.toNat)) :
    (frame K u hs hd).byte a = s.byte a := by
  obtain ⟨hw, hht⟩ := allocate_size_le hu
  rw [frame_byte_of_outside, allocate_byte hu, if_neg ha]
  rwa [allocate_outSlot hu, slotSize_outSlot ch base hw hht]

/-- The samples of the output are the kernel's values on the memory from before the allocation: neither the zero fill
nor the loop touches a byte of the source. -/
theorem frame_sample_of_allocate {K : Kernel} (hK : ReadsOnly K (s.slot hs)) (hlive : (s.slot hs).valid = true)
    (hne : hd ≠ hs) (hch : ch = (s.slot hs).ch) {x y c : Nat} (hx : x < w) (hy : y < ht) (hc : c < ch.toNat) :
    (frame K u hs hd).byte (base.toNat + (y * w + x) * ch.toNat + c) =
      frameValue K (s.slot hs) (outSlot ch w ht base) s.latch.mapMode s.byte (x, y, c) := by
  obtain ⟨hw, hht⟩ := allocate_size_le hu
  have hout := allocate_outSlot hu
  have hsrc : u.slot hs = s.slot hs := (allocate_slot hu).2 hs hne.symm
  have hlatch : u.latch = s.latch := by
    obtain ⟨sl, m, rfl⟩ := allocate_frame hu
    rfl
  have hsample : (u.slot hd).Sample (x, y, c) := by
    rw [hout, Slot.Sample, outSlot_width ch base hw, outSlot_height ch base hht]
    exact ⟨hx, hy, hc⟩
  have hloop := frame_byte_paddr (K := K) (hs := hs) (by rwa [hsrc]) (by rw [hout, hsrc, hch])
    (by rw [hout, hsrc]; exact allocate_apart hu hlive) hsample
  rw [hout, hsrc, hlatch, paddr_outSlot ch base hw] at hloop
  exact hloop.trans (hK _ _ (fun _ => allocate_byte_of_live hu hlive) _ _ c (hch ▸ hc))

/-- As numbers they are the spec's values at the spec's source coordinates. -/
theorem frame_sample_toNat {K : Kernel} {V : SpecKernel} (hV : Computes K V)
    (hK : KernelReadsSource K) {p : ℕ} (hlive : (s.slot hs).valid = true) (hsound : SoundSlot p (s.slot hs))
    (hne : hd ≠ hs) (hch : ch = (s.slot hs).ch) {x y c : ℕ} (hx : x < w) (hy : y < ht) (hc : c < ch.toNat) :
    ((frame K u hs hd).byte (base.toNat + (y * w + x) * ch.toNat + c)).toNat =
      V s.byte (s.slot hs) (Spec.src x (s.slot hs).width.toNat w s.latch.mapMode)
        (Spec.src y (s.slot hs).height.toNat ht s.latch.mapMode) c := by
  obtain ⟨hw, hht⟩ := allocate_size_le hu
  have hwidth := outSlot_width (ht := ht) ch base hw
  have hheight := outSlot_height (w := w) ch base hht
  rw [frame_sample_of_allocate hu (hK hsound) hlive hne hch hx hy hc,
    frameValue_toNat hV hsound (by omega) (by omega) (by omega) (by omega), hwidth, hheight]

end

/-! ### The commands (R225, R226) -/

/-- Past its INVALID_PARAMETER checks a frame command's end is allocation's: ALLOCATION_FAILURE, or the frame loop and
the sizes of the output. -/
theorem scaleWith_of_valid (K : Kernel) {hs hd : Handle} {sk : ScaleKind} {s : State} {q : ℚ}
    (hlive : (s.slot hs).valid = true) (hsound : SoundSlot s.pixmemBytes (s.slot hs)) (hne : hd ≠ hs)
    (hfree : (s.slot hd).valid = false) (hq : Spec.IsScale sk s.latch.arg0 s.latch.arg1 q) :
    scaleWith K hs hd sk s =
      (allocate s hd (Spec.outDim (s.slot hs).width.toNat q) (Spec.outDim (s.slot hs).height.toNat q)
          (s.slot hs).ch.toNat s.latch.arg2.toNat).elim
        (.next (Spec.failed s .allocationFailure)) fun t => .next { frame K t hs hd with
          res0 := BitVec.ofNat 32 (Spec.outDim (s.slot hs).width.toNat q)
          res1 := BitVec.ofNat 32 (Spec.outDim (s.slot hs).height.toNat q)
          res2 := BitVec.ofNat 32 (Spec.outDim (s.slot hs).width.toNat q * Spec.outDim (s.slot hs).height.toNat q *
            (s.slot hs).ch.toNat)
          err := .none, busy := false } := by
  obtain ⟨r, hr, rfl⟩ := (isScale_iff _ _ _ _).1 hq
  have hdst : ¬(hd = hs ∨ (s.slot hd).valid = true) := by simp [hne, hfree]
  rw [scaleWith, if_neg (by simp [hlive]), if_neg hdst, hr]
  dsimp only [u32]
  rw [if_neg (not_not.2 hsound)]
  simp only [outDim_value, ← enc32_natCast]
  cases allocate s hd (outDim (s.slot hs).width.toNat r) (outDim (s.slot hs).height.toNat r) (s.slot hs).ch.toNat
      s.latch.arg2.toNat with
  | none => exact raiseError_eq_failed s (by decide)
  | some t => exact commit_eq_next _

/-- The word of a command with two handles and a scale kind (R105, R111). -/
theorem fieldsWord_scale (op : Nat) (hs hd : Handle) (sk : ScaleKind) :
    fieldsWord op hs.val hd.val sk.bit =
      BitVec.ofNat 32 (op + 256 * hs.val + 4096 * hd.val + if sk = .rational then 65536 else 0) := by
  rw [fieldsWord, Nat.mul_comm hs.val, Nat.mul_comm hd.val]
  cases sk <;> rfl

/-- A command that scales with a kernel reading its source alone resizes by the spec's function of that kernel. -/
theorem resizes_of_scaleWith {op : ℕ} {cmd : Handle → Handle → ScaleKind → Instr} {K : Kernel} {V : SpecKernel}
    (hword : ∀ a b k, encode (cmd a b k) = fieldsWord op a.val b.val k.bit)
    (hwf : ∀ a b k, (cmd a b k).WellFormed = true) (hexec : ∀ a b k s, exec (cmd a b k) s = scaleWith K a b k s)
    (hK : KernelReadsSource K) (hV : Computes K V) : Spec.Resizes op cmd V := by
  intro s hs hd sk q d k wo ho b
  constructor
  · rw [← fieldsWord_scale, ← hword]
    exact decodeInvertsEncode _ (hwf hs hd sk)
  · intro hlive hsound hne hfree hq hwo hho hfit hover
    obtain ⟨u, hu⟩ : ∃ u, allocate s hd wo ho k b = some u :=
      ⟨_, allocate_eq_some.2 ⟨⟨hwo, hho⟩, hfit, not_overlapsLive.2 hover, rfl⟩⟩
    have hrun := scaleWith_of_valid K hlive hsound hne hfree hq
    rw [hu, ← hexec] at hrun
    have hself := allocate_outSlot hu
    have hother := (allocate_slot hu).2
    refine ⟨_, hrun, hself, hother, fun x y c hx hy hc => ?_, fun a ha => ?_, ?_⟩
    · exact frame_sample_toNat hu hV hK hlive hsound hne rfl hx hy hc
    · exact frame_byte_of_allocate_outside hu K ha
    · obtain ⟨sl, m, rfl⟩ := allocate_frame hu
      rfl

/-- Settles O55: NN_SCALE is the frame loop with the nearest-neighbour kernel. -/
theorem nnScaleResizesByNearestNeighbour : Obligations.NnScaleResizesByNearestNeighbour :=
  resizes_of_scaleWith (fun _ _ _ => rfl) (fun _ _ _ => rfl) (fun _ _ _ _ => rfl) readsOnly_nnValue nnValue_computes

/-- Settles O56: BL_SCALE is the frame loop with the bilinear kernel. -/
theorem blScaleResizesByBilinearBlend : Obligations.BlScaleResizesByBilinearBlend :=
  resizes_of_scaleWith (fun _ _ _ => rfl) (fun _ _ _ => rfl) (fun _ _ _ _ => rfl) readsOnly_blValue blValue_computes

end Sys2Proof.Machine
end

section
/-! PROOFS. The kernel commands: the packed pixel of a kernel's samples, the two sample commands, and the bilinear sum as
a weighted mean of its neighbours (R200 to R206). -/

namespace Sys2Proof.Machine

/-! ### PACK (R205) -/

/-- A byte put below a word adds to 256 times its number. -/
theorem toNat_append_byte {n : ℕ} (x : BitVec n) (b : Byte) : (x ++ b).toNat = x.toNat * 256 + b.toNat := by
  rw [BitVec.toNat_append, ← Nat.shiftLeft_add_eq_or_of_lt b.isLt, Nat.shiftLeft_eq]

/-- `PACK` of a pixel's bytes is the packing of their numbers. -/
theorem packPixel_eq_pack {k : ℕ} {v : ℕ → Byte} {n : ℕ → ℕ} (h : ∀ c, (v c).toNat = n c) :
    packPixel k v = Spec.pack k n := by
  apply BitVec.eq_of_toNat_eq
  simp only [packPixel, Spec.pack, ← h, BitVec.toNat_ofNat]
  split
  next => rw [BitVec.toNat_setWidth]
  next =>
    simp only [toNat_append_byte, BitVec.toNat_ofNat]
    omega

/-! ### The commands (R202, R204) -/

/-- The word of a command with one handle (R103, R111). -/
theorem fieldsWord_handle (op : Nat) (ha : Handle) :
    fieldsWord op ha.val 0 0 = BitVec.ofNat 32 (op + 256 * ha.val) := by
  rw [fieldsWord, Nat.mul_comm ha.val]
  rfl

theorem sampleWith_of_free (K : Kernel) {ha : Handle} {s : State} (hfree : (s.slot ha).valid = false) :
    sampleWith K ha s = .next (Spec.failed s .invalidParameter) := by
  rw [sampleWith, if_pos hfree, raiseError_eq_failed s (by decide)]

/-- On a live slot the answer is the spec's function of the kernel, packed. -/
theorem sampleWith_of_live {K : Kernel} {V : SpecKernel} (hV : Computes K V) {ha : Handle} {s : State}
    (hlive : (s.slot ha).valid = true) (hsound : SoundSlot s.pixmemBytes (s.slot ha)) :
    sampleWith K ha s = .next { s with
      res0 := Spec.pack (s.slot ha).ch.toNat (V s.byte (s.slot ha) s.latch.arg0.toInt s.latch.arg1.toInt)
      err := .none, busy := false } := by
  have ⟨_, hw, _, hh, _, _⟩ := hsound
  rw [sampleWith, if_neg (by simp [hlive]), if_neg (not_not.2 hsound), commitRes0_eq_next,
    packPixel_eq_pack (hV s.byte (s.slot ha) s.latch.arg0 s.latch.arg1 · hw hh)]
  rfl

/-- Settles O51: NN_SAMPLE samples with the nearest-neighbour kernel. -/
theorem nnSampleAnswersTheNearestPixel : Obligations.NnSampleAnswersTheNearestPixel := by
  intro s ha
  refine ⟨?_, sampleWith_of_free nnValue, sampleWith_of_live nnValue_computes⟩
  rw [← fieldsWord_handle]
  exact decodeInvertsEncode (.nnSample ha) rfl

/-- Settles O52: BL_SAMPLE samples with the bilinear kernel. -/
theorem blSampleAnswersTheBlend : Obligations.BlSampleAnswersTheBlend := by
  intro s ha
  refine ⟨?_, sampleWith_of_free blValue, sampleWith_of_live blValue_computes⟩
  rw [← fieldsWord_handle]
  exact decodeInvertsEncode (.blSample ha) rfl

/-! ### The bilinear sum as a weighted mean (R203, R206) -/

/-- The sum with its terms collected by neighbour: four weights that add up to 65536. -/
theorem bilinearSum_eq_weighted (p00 p01 p10 p11 dx dy : ℤ) :
    bilinearSum p00 p01 p10 p11 dx dy =
      p00 * (65536 - dx - dy + shr16 (dx * dy)) + p01 * (dx - shr16 (dx * dy)) +
        p10 * (dy - shr16 (dx * dy)) + p11 * shr16 (dx * dy) := by
  unfold bilinearSum
  ring

/-- Moving every neighbour by `m` moves the sum by `65536 * m`. -/
theorem bilinearSum_sub_const (p00 p01 p10 p11 m dx dy : ℤ) :
    bilinearSum (p00 - m) (p01 - m) (p10 - m) (p11 - m) dx dy = bilinearSum p00 p01 p10 p11 dx dy - 65536 * m := by
  unfold bilinearSum
  ring

/-- Turning every neighbour over at `m` turns the sum over at `65536 * m`. -/
theorem bilinearSum_const_sub (p00 p01 p10 p11 m dx dy : ℤ) :
    bilinearSum (m - p00) (m - p01) (m - p10) (m - p11) dx dy = 65536 * m - bilinearSum p00 p01 p10 p11 dx dy := by
  unfold bilinearSum
  ring

section
variable {dx dy : ℤ} (hx : 0 ≤ dx ∧ dx < 65536) (hy : 0 ≤ dy ∧ dy < 65536)
include hx hy

/-- The floored product of the two fractions leaves no neighbour a negative weight. -/
theorem weight_bounds :
    0 ≤ shr16 (dx * dy) ∧ shr16 (dx * dy) ≤ dx ∧ shr16 (dx * dy) ≤ dy ∧ dx + dy - 65536 ≤ shr16 (dx * dy) := by
  obtain ⟨hx0, hx1⟩ := hx
  obtain ⟨hy0, hy1⟩ := hy
  have hfar : 0 ≤ (65536 - dx) * (65536 - dy) := mul_nonneg (by omega) (by omega)
  refine ⟨?_, ?_, ?_, ?_⟩
  · exact Int.ediv_nonneg (by positivity) (by decide)
  · exact Int.ediv_le_of_le_mul (by decide) (by gcongr)
  · exact Int.ediv_le_of_le_mul (by decide) (by rw [mul_comm dx]; gcongr)
  · exact Int.le_ediv_of_mul_le (by decide) (by linarith)

/-- No weight is negative, so neither is the sum of neighbours that are not. -/
theorem bilinearSum_nonneg {p00 p01 p10 p11 : ℤ} (h00 : 0 ≤ p00) (h01 : 0 ≤ p01) (h10 : 0 ≤ p10) (h11 : 0 ≤ p11) :
    0 ≤ bilinearSum p00 p01 p10 p11 dx dy := by
  obtain ⟨hw, hwx, hwy, hwxy⟩ := weight_bounds hx hy
  have hw00 : 0 ≤ 65536 - dx - dy + shr16 (dx * dy) := by omega
  have hw01 : 0 ≤ dx - shr16 (dx * dy) := sub_nonneg.2 hwx
  have hw10 : 0 ≤ dy - shr16 (dx * dy) := sub_nonneg.2 hwy
  rw [bilinearSum_eq_weighted]
  positivity

theorem le_bilinearSum {p00 p01 p10 p11 m : ℤ} (h00 : m ≤ p00) (h01 : m ≤ p01) (h10 : m ≤ p10) (h11 : m ≤ p11) :
    65536 * m ≤ bilinearSum p00 p01 p10 p11 dx dy := by
  rw [← sub_nonneg, ← bilinearSum_sub_const]
  exact bilinearSum_nonneg hx hy (sub_nonneg.2 h00) (sub_nonneg.2 h01) (sub_nonneg.2 h10) (sub_nonneg.2 h11)

theorem bilinearSum_le {p00 p01 p10 p11 m : ℤ} (h00 : p00 ≤ m) (h01 : p01 ≤ m) (h10 : p10 ≤ m) (h11 : p11 ≤ m) :
    bilinearSum p00 p01 p10 p11 dx dy ≤ 65536 * m := by
  rw [← sub_nonneg, ← bilinearSum_const_sub]
  exact bilinearSum_nonneg hx hy (sub_nonneg.2 h00) (sub_nonneg.2 h01) (sub_nonneg.2 h10) (sub_nonneg.2 h11)

end

theorem clampInt_of_mem {v lo hi : ℤ} (hlo : lo ≤ v) (hhi : v ≤ hi) : clampInt v lo hi = v := by
  rw [clampInt, if_neg (not_lt.2 hlo), if_neg (not_lt.2 hhi)]

/-- Settles O54: the sum is a weighted mean of bytes, so it lies between the least and the greatest, and in [0, 255]. -/
theorem bilinearSumStaysBetweenItsNeighbours : Obligations.BilinearSumStaysBetweenItsNeighbours := by
  intro p00 p01 p10 p11 dx dy hdx hdy s lo hi
  have hx : 0 ≤ (dx : ℤ) ∧ (dx : ℤ) < 65536 := by omega
  have hy : 0 ≤ (dy : ℤ) ∧ (dy : ℤ) < 65536 := by omega
  have hlo : 65536 * (lo : ℤ) ≤ s := le_bilinearSum hx hy (by omega) (by omega) (by omega) (by omega)
  have hhi : s ≤ 65536 * (hi : ℤ) := bilinearSum_le hx hy (by omega) (by omega) (by omega) (by omega)
  have hbyte : hi ≤ 255 := by omega
  have hfloor : 0 ≤ shr16 s ∧ shr16 s ≤ 255 := by unfold shr16; omega
  exact ⟨hlo, hhi, clampInt_of_mem hfloor.1 hfloor.2⟩

end Sys2Proof.Machine
end

section
/-! PROOFS. The frame commands seen through their outcome: which check an error reports, what a success says of the
output's samples, the copy at scale 1 and the monotone ramp (R221 to R228). -/

namespace Sys2Proof.Machine

/-! ### The errors and their order (R221, R223, R225) -/

/-- Each of the INVALID_PARAMETER checks stands before the soundness of the source and before allocation. -/
theorem scaleWith_of_invalid (K : Kernel) {hs hd : Handle} {sk : ScaleKind} {s : State}
    (h : (s.slot hs).valid = false ∨ hd = hs ∨ (s.slot hd).valid = true ∨
      ∀ q, ¬Spec.IsScale sk s.latch.arg0 s.latch.arg1 q) :
    scaleWith K hs hd sk s = .next (Spec.failed s .invalidParameter) := by
  rcases scaleWith_cases K hs hd sk s with ⟨-, hrun⟩ | ⟨r, hlive, hne, hfree, hr, -⟩
  · exact hrun
  · have hscale : Spec.IsScale sk s.latch.arg0 s.latch.arg1 r.value := (isScale_iff ..).2 ⟨r, hr, rfl⟩
    rcases h with h | h | h | h
    · exact absurd (h.symm.trans hlive) (by decide)
    · exact absurd h hne
    · exact absurd (h.symm.trans hfree) (by decide)
    · exact absurd hscale (h _)

/-- Both frame commands are the shared resize with a kernel of their own. -/
theorem exec_frameCommand {cmd : Handle → Handle → ScaleKind → Instr} (hcmd : cmd = .nnScale ∨ cmd = .blScale) :
    ∃ K, ∀ hs hd sk s, exec (cmd hs hd sk) s = scaleWith K hs hd sk s := by
  rcases hcmd with rfl | rfl
  · exact ⟨nnValue, fun _ _ _ _ => rfl⟩
  · exact ⟨blValue, fun _ _ _ _ => rfl⟩

/-- Settles O57: past the INVALID_PARAMETER checks the end is allocation's, which fails in each of the four cases. -/
theorem scaleReportsTheFirstFailingCheck : Obligations.ScaleReportsTheFirstFailingCheck := by
  intro s hs hd sk cmd hcmd
  obtain ⟨K, hexec⟩ := exec_frameCommand hcmd
  rw [hexec]
  refine ⟨scaleWith_of_invalid K, fun q hlive hsound hne hfree hq hfail => ?_⟩
  have hnone : allocate s hd (Spec.outDim (s.slot hs).width.toNat q) (Spec.outDim (s.slot hs).height.toNat q)
      (s.slot hs).ch.toNat s.latch.arg2.toNat = none := by
    rw [allocate_eq_none]
    exact hfail.imp_right (Or.imp_right (Or.imp_right fun hover => not_not.1 (mt not_overlapsLive.1 hover)))
  exact (scaleWith_of_valid K hlive hsound hne hfree hq).trans (congrArg (Option.elim · _ _) hnone)

/-! ### What a success says (R222 to R226) -/

theorem isScale_unique {sk : ScaleKind} {a0 a1 : Word} {q q' : ℚ} (h : Spec.IsScale sk a0 a1 q)
    (h' : Spec.IsScale sk a0 a1 q') : q = q' := by
  obtain ⟨r, hr, rfl⟩ := (isScale_iff ..).1 h
  obtain ⟨r', hr', rfl⟩ := (isScale_iff ..).1 h'
  rw [Option.some.inj (hr.symm.trans hr')]

/-- A resize of `hs` into `hd` by the scale `q`, from `s` to `t`, with the spec's kernel `V`: the source was sound, the
output has its format and the sizes of R222, and each sample of the output is the kernel's value on the memory before. -/
structure Resized (V : SpecKernel) (q : ℚ) (hs hd : Handle) (s t : State) : Prop where
  sound : SoundSlot s.pixmemBytes (s.slot hs)
  base_eq : (t.slot hd).base = s.latch.arg2
  ch_eq : (t.slot hd).ch = (s.slot hs).ch
  width_eq : (t.slot hd).width.toNat = Spec.outDim (s.slot hs).width.toNat q
  height_eq : (t.slot hd).height.toNat = Spec.outDim (s.slot hs).height.toNat q
  pix_eq : ∀ x y c, x < (t.slot hd).width.toNat → y < (t.slot hd).height.toNat → c < (t.slot hd).ch.toNat →
    Spec.pix t.byte (t.slot hd) x y c =
      V s.byte (s.slot hs) (Spec.src x (s.slot hs).width.toNat (t.slot hd).width.toNat s.latch.mapMode)
        (Spec.src y (s.slot hs).height.toNat (t.slot hd).height.toNat s.latch.mapMode) c

/-- The loop on an allocated output resizes; a completion with results changes neither slots nor bytes. -/
theorem resized_of_allocate {K : Kernel} {V : SpecKernel} (hK : KernelReadsSource K) (hV : Computes K V) {q : ℚ}
    {hs hd : Handle} {s t u : State} (hlive : (s.slot hs).valid = true)
    (hsound : SoundSlot s.pixmemBytes (s.slot hs)) (hne : hd ≠ hs)
    (hu : allocate s hd (Spec.outDim (s.slot hs).width.toNat q) (Spec.outDim (s.slot hs).height.toNat q)
      (s.slot hs).ch.toNat s.latch.arg2.toNat = some u)
    (hslot : t.slot hd = u.slot hd) (hbyte : t.byte = (frame K u hs hd).byte) : Resized V q hs hd s t := by
  obtain ⟨hw, hh⟩ := allocate_size_le hu
  rw [allocate_outSlot hu] at hslot
  have hwidth := outSlot_width (ht := Spec.outDim (s.slot hs).height.toNat q) (s.slot hs).ch s.latch.arg2 hw
  have hheight := outSlot_height (w := Spec.outDim (s.slot hs).width.toNat q) (s.slot hs).ch s.latch.arg2 hh
  rw [← hslot] at hwidth hheight
  refine ⟨hsound, by rw [hslot], by rw [hslot], hwidth, hheight, ?_⟩
  rw [hwidth, hheight, hslot, hbyte]
  intro x y c hx hy hc
  rw [pix_eq_paddr, paddr_outSlot _ _ hw]
  exact frame_sample_toNat hu hV hK hlive hsound hne rfl hx hy hc

/-- A frame command that ends without an error has resized its source by its scale. -/
theorem scaleWith_resized {K : Kernel} {V : SpecKernel} (hK : KernelReadsSource K) (hV : Computes K V)
    {hs hd : Handle} {sk : ScaleKind} {s t : State} (hrun : scaleWith K hs hd sk s = .next t) (herr : t.err = .none) :
    ∃ q, Spec.IsScale sk s.latch.arg0 s.latch.arg1 q ∧ Resized V q hs hd s t := by
  rcases scaleWith_cases K hs hd sk s with ⟨-, hend⟩ | ⟨r, hlive, hne, hfree, hr, hend⟩
  · cases hrun.symm.trans hend
    cases herr
  rcases hend with ⟨-, hend⟩ | ⟨hsound, ⟨-, hend⟩ | ⟨u, hu, hend⟩⟩
  · cases hrun.symm.trans hend
  · cases hrun.symm.trans hend
    cases herr
  · cases hrun.symm.trans hend
    rw [← outDim_value, ← outDim_value] at hu
    exact ⟨r.value, (isScale_iff ..).2 ⟨r, hr, rfl⟩, resized_of_allocate hK hV hlive hsound hne hu rfl rfl⟩

/-! ### Indices (R183, R184) -/

theorem index_eq (v d : ℤ) (n : ℕ) : Spec.index v d n = (max 0 (min (shr16 v + d) (n - 1))).toNat := by
  rw [Spec.index, floor_div_65536]

theorem index_lt (v d : ℤ) {n : ℕ} (hn : 1 ≤ n) : Spec.index v d n < n := by
  rw [index_eq_clampIdx v d hn]
  exact clampIdx_toNat_lt _ n hn

/-- An index inside the raster is its own clamp. -/
theorem index_mul_65536 {x n : ℕ} (hx : x < n) : Spec.index (x * 65536) 0 n = x := by
  rw [index_eq, shr16]
  omega

/-- A pixel index moves with the shifted coordinate. -/
theorem index_le_index {v v' d d' : ℤ} (h : shr16 v + d ≤ shr16 v' + d') (n : ℕ) :
    Spec.index v d n ≤ Spec.index v' d' n := by
  rw [index_eq, index_eq]
  omega

/-! ### Scale 1 (R228) -/

theorem outDim_one {n : ℕ} (hn : 1 ≤ n) : Spec.outDim n 1 = n := by
  rw [Spec.outDim, mul_one, Int.floor_natCast, Int.toNat_natCast, max_eq_right hn]

/-- Between axes of one size every output coordinate maps to itself, under either policy. -/
theorem src_self (x : ℕ) {n : ℕ} (hn : 1 ≤ n) (mode : MapMode) : Spec.src x n n mode = x * 65536 := by
  have hstep : stepUnits n n = 65536 := Int.mul_ediv_cancel_left _ (by omega)
  rw [src_eq_srcCoord x n hn]
  cases mode with
  | center =>
    rw [srcCoord, hstep, centerCoord, centerProduct, shr16, Int.mul_ediv_cancel _ (by decide)]
    ring
  | origin => rw [srcCoord, hstep, originCoord]

/-- The kernel's value at the whole coordinates of a pixel is that pixel. -/
def KeepsPixels (V : SpecKernel) : Prop :=
  ∀ (rd : ℕ → Byte) (d : Slot) {x y : ℕ} (c : ℕ), x < d.width.toNat → y < d.height.toNat →
    V rd d (x * 65536) (y * 65536) c = Spec.pix rd d x y c

theorem nn_keepsPixels : KeepsPixels Spec.nn := by
  intro rd d x y c hx hy
  rw [Spec.nn, index_mul_65536 hx, index_mul_65536 hy]

/-- With no fraction on either axis the blend is its first neighbour (R203). -/
theorem blend_zero_zero (p00 p01 p10 p11 : ℕ) : Spec.blend p00 p01 p10 p11 0 0 = p00 * 65536 := by
  simp [Spec.blend]

/-- The clamp to a byte leaves a sample as it is. -/
theorem clamp_pix (rd : ℕ → Byte) (d : Slot) (x y c : ℕ) :
    (max 0 (min (Spec.pix rd d x y c : ℤ) 255)).toNat = Spec.pix rd d x y c := by
  have hbyte : Spec.pix rd d x y c < 256 := BitVec.isLt _
  omega

theorem bl_keepsPixels : KeepsPixels Spec.bl := by
  intro rd d x y c hx hy
  rw [Spec.bl, Int.mul_emod_left, Int.mul_emod_left, blend_zero_zero, floor_div_65536, shr16,
    Int.mul_ediv_cancel _ (by decide), index_mul_65536 hx, index_mul_65536 hy, clamp_pix]

/-- Every byte offset of a raster is that of a sample. -/
theorem exists_sampleIndex {w h k n : ℕ} (hn : n < w * h * k) :
    ∃ x y c, x < w ∧ y < h ∧ c < k ∧ (y * w + x) * k + c = n := by
  have hk : 0 < k := Nat.pos_of_mul_pos_left (Nat.zero_lt_of_lt hn)
  have hpix : n / k < w * h := Nat.div_lt_of_lt_mul (by rwa [Nat.mul_comm])
  have hw : 0 < w := Nat.pos_of_mul_pos_right (Nat.zero_lt_of_lt hpix)
  refine ⟨n / k % w, n / k / w, n % k, Nat.mod_lt _ hw, Nat.div_lt_of_lt_mul hpix, Nat.mod_lt _ hk, ?_⟩
  rw [Nat.div_add_mod', Nat.div_add_mod']

/-- A resize by 1 with a kernel that keeps pixels copies the source. -/
theorem Resized.byte_of_one {V : SpecKernel} (hV : KeepsPixels V) {hs hd : Handle} {s t : State}
    (h : Resized V 1 hs hd s t) {n : ℕ} (hn : n < slotSize (s.slot hs)) :
    t.byte (s.latch.arg2.toNat + n) = s.byte ((s.slot hs).base.toNat + n) := by
  obtain ⟨-, hw, -, hh, -⟩ := h.sound
  have hwidth := h.width_eq.trans (outDim_one hw)
  have hheight := h.height_eq.trans (outDim_one hh)
  obtain ⟨x, y, c, hx, hy, hc, rfl⟩ := exists_sampleIndex hn
  have hcopy := h.pix_eq x y c (by rwa [hwidth]) (by rwa [hheight]) (by rwa [h.ch_eq])
  rw [hwidth, hheight, src_self x hw, src_self y hh, hV _ _ c hx hy, Spec.pix, Spec.pix, h.base_eq, h.ch_eq,
    hwidth] at hcopy
  rw [← Nat.add_assoc, ← Nat.add_assoc]
  exact BitVec.eq_of_toNat_eq hcopy

theorem scaleWith_one_copies {K : Kernel} {V : SpecKernel} (hK : KernelReadsSource K) (hV : Computes K V)
    (hkeeps : KeepsPixels V) {hs hd : Handle} {sk : ScaleKind} {s t : State}
    (hone : Spec.IsScale sk s.latch.arg0 s.latch.arg1 1) (hrun : scaleWith K hs hd sk s = .next t)
    (herr : t.err = .none) {n : ℕ} (hn : n < slotSize (s.slot hs)) :
    t.byte (s.latch.arg2.toNat + n) = s.byte ((s.slot hs).base.toNat + n) := by
  obtain ⟨q, hq, hresized⟩ := scaleWith_resized hK hV hrun herr
  obtain rfl := isScale_unique hq hone
  exact hresized.byte_of_one hkeeps hn

/-- Settles O58: at scale 1 every sample of the output maps to the same sample of the source, and both kernels keep it. -/
theorem scaleByOneCopiesTheSource : Obligations.ScaleByOneCopiesTheSource := by
  intro s t hs hd sk cmd hcmd hone hrun herr n hn
  rcases hcmd with rfl | rfl
  · exact scaleWith_one_copies readsOnly_nnValue nnValue_computes nn_keepsPixels hone hrun herr hn
  · exact scaleWith_one_copies readsOnly_blValue blValue_computes bl_keepsPixels hone hrun herr hn

/-! ### Monotone ramps (R228) -/

/-- Source coordinates do not fall from one output coordinate to the next. -/
theorem src_le_src_succ (x i : ℕ) {n : ℕ} (hn : 1 ≤ n) (mode : MapMode) :
    Spec.src x i n mode ≤ Spec.src (x + 1) i n mode := by
  have hstep : 0 ≤ stepUnits i n := Int.ediv_nonneg (by positivity) (by positivity)
  rw [src_eq_srcCoord x i hn, src_eq_srcCoord (x + 1) i hn]
  cases mode with
  | center =>
    simp only [srcCoord, centerCoord, centerProduct, shr16]
    have hproduct : ((x : ℤ) * 65536 + 32768) * stepUnits i n ≤ (((x + 1 : ℕ) : ℤ) * 65536 + 32768) * stepUnits i n :=
      mul_le_mul_of_nonneg_right (by omega) hstep
    exact sub_le_sub_right (Int.ediv_le_ediv (by decide) hproduct) _
  | origin => exact mul_le_mul_of_nonneg_right (by omega) hstep

/-- The row `g` of `w` pixels at a coordinate of `v` units of 2^-16, interpolated between two pixels, in those units. -/
def rowValue (g : ℕ → ℕ) (w : ℕ) (v : ℤ) : ℤ :=
  g (Spec.index v 0 w) * 65536 + ((g (Spec.index v 1 w) : ℤ) - g (Spec.index v 0 w)) * (v % 65536)

/-- Where the rows are the same the blend does not depend on the vertical fraction (R203). -/
theorem blend_of_equal_rows (p0 p1 : ℕ) (dx dy : ℤ) :
    Spec.blend p0 p1 p0 p1 dx dy = p0 * 65536 + ((p1 : ℤ) - p0) * dx := by
  unfold Spec.blend
  ring

section
variable {g : ℕ → ℕ} {w : ℕ} (hw : 1 ≤ w) (hg : MonotoneOn g (Set.Iio w))
include hw hg

/-- On a row that does not fall the pixels follow the shifted coordinate. -/
theorem row_index_le {v v' d d' : ℤ} (h : shr16 v + d ≤ shr16 v' + d') :
    (g (Spec.index v d w) : ℤ) ≤ g (Spec.index v' d' w) :=
  Int.ofNat_le.2 (hg (index_lt v d hw) (index_lt v' d' hw) (index_le_index h w))

/-- An interpolated value lies between its two pixels. -/
theorem rowValue_bounds (v : ℤ) :
    g (Spec.index v 0 w) * 65536 ≤ rowValue g w v ∧ rowValue g w v ≤ g (Spec.index v 1 w) * 65536 := by
  have hstep : (0 : ℤ) ≤ g (Spec.index v 1 w) - g (Spec.index v 0 w) :=
    sub_nonneg.2 (row_index_le hw hg (by omega))
  have hfrac : 0 ≤ v % 65536 ∧ v % 65536 ≤ 65536 := by omega
  have hlow := mul_nonneg hstep hfrac.1
  have hhigh := mul_le_mul_of_nonneg_left hfrac.2 hstep
  unfold rowValue
  constructor <;> linarith

/-- Interpolation keeps the order: within a pixel the fraction decides, between pixels their values do. -/
theorem rowValue_mono {v v' : ℤ} (h : v ≤ v') : rowValue g w v ≤ rowValue g w v' := by
  rcases (Int.ediv_le_ediv (by decide : (0 : ℤ) < 65536) h).eq_or_lt with hsame | hnext
  · have hindex (d : ℤ) : Spec.index v d w = Spec.index v' d w := by rw [index_eq, index_eq, shr16, shr16, hsame]
    have hstep : (0 : ℤ) ≤ g (Spec.index v' 1 w) - g (Spec.index v' 0 w) :=
      sub_nonneg.2 (row_index_le hw hg (by omega))
    have hfrac : v % 65536 ≤ v' % 65536 := by omega
    rw [rowValue, hindex 0, hindex 1]
    exact add_le_add_right (mul_le_mul_of_nonneg_left hfrac hstep) _
  · calc rowValue g w v ≤ g (Spec.index v 1 w) * 65536 := (rowValue_bounds hw hg v).2
      _ ≤ g (Spec.index v' 0 w) * 65536 := by
        gcongr
        exact_mod_cast row_index_le hw hg (d := 1) (d' := 0) (by unfold shr16; omega)
      _ ≤ rowValue g w v' := (rowValue_bounds hw hg v').1

end

/-- A source all of whose rows are `g`, in the channel `c`. -/
def HasRows (rd : ℕ → Byte) (d : Slot) (c : ℕ) (g : ℕ → ℕ) : Prop :=
  ∀ x y, x < d.width.toNat → y < d.height.toNat → Spec.pix rd d x y c = g x

/-- The bilinear kernel interpolates along the common row. -/
theorem bl_of_hasRows {rd : ℕ → Byte} {d : Slot} {c : ℕ} {g : ℕ → ℕ} (h : HasRows rd d c g) (hw : 1 ≤ d.width.toNat)
    (hh : 1 ≤ d.height.toNat) (sx sy : ℤ) :
    Spec.bl rd d sx sy c = (max 0 (min (shr16 (rowValue g d.width.toNat sx)) 255)).toNat := by
  have hpix (dx dy : ℤ) : Spec.pix rd d (Spec.index sx dx d.width.toNat) (Spec.index sy dy d.height.toNat) c =
      g (Spec.index sx dx d.width.toNat) := h _ _ (index_lt sx dx hw) (index_lt sy dy hh)
  rw [Spec.bl, hpix, hpix, hpix, hpix, blend_of_equal_rows, floor_div_65536, rowValue]

theorem bl_mono_of_hasRows {rd : ℕ → Byte} {d : Slot} {c : ℕ} {g : ℕ → ℕ} (h : HasRows rd d c g)
    (hw : 1 ≤ d.width.toNat) (hh : 1 ≤ d.height.toNat) (hg : MonotoneOn g (Set.Iio d.width.toNat)) {sx sx' : ℤ}
    (hsx : sx ≤ sx') (sy : ℤ) : Spec.bl rd d sx sy c ≤ Spec.bl rd d sx' sy c := by
  have hrow := rowValue_mono hw hg hsx
  rw [bl_of_hasRows h hw hh, bl_of_hasRows h hw hh]
  unfold shr16
  omega

/-- A sample of a raster of one channel. -/
theorem pix_of_gray (rd : ℕ → Byte) {d : Slot} (hgray : d.ch = 1#2) (x y : ℕ) :
    Spec.pix rd d x y 0 = (rd (d.base.toNat + y * d.width.toNat + x)).toNat := by
  have hch : d.ch.toNat = 1 := congrArg BitVec.toNat hgray
  rw [Spec.pix, hch, Nat.mul_one, Nat.add_zero, Nat.add_assoc]

/-- Settles O60: the source coordinates along a row rise, and the kernel on a ramp rises with them. -/
theorem bilinearScaleKeepsRampsMonotone : Obligations.BilinearScaleKeepsRampsMonotone := by
  intro s t hs hd sk g hgray hrows hramp hrun herr x y hx hy
  obtain ⟨q, -, h⟩ := scaleWith_resized readsOnly_blValue blValue_computes hrun herr
  obtain ⟨-, hw, -, hh, -⟩ := h.sound
  have hout : (t.slot hd).ch = 1#2 := h.ch_eq.trans hgray
  have hchannel : 0 < (t.slot hd).ch.toNat := by rw [hout]; decide
  have hsame : HasRows s.byte (s.slot hs) 0 fun x => (g x).toNat := fun x y hx hy => by
    rw [pix_of_gray _ hgray, hrows x y hx hy]
  have hmono : MonotoneOn (fun x => (g x).toNat) (Set.Iio (s.slot hs).width.toNat) :=
    monotoneOn_of_le_add_one Set.ordConnected_Iio fun a _ _ ha => hramp a ha
  rw [← pix_of_gray _ hout, ← pix_of_gray _ hout, h.pix_eq x y 0 (by omega) hy hchannel,
    h.pix_eq (x + 1) y 0 hx hy hchannel]
  exact bl_mono_of_hasRows hsame hw hh hmono (src_le_src_succ x _ (by omega) _) _

end Sys2Proof.Machine
end

section
/-! PROOFS. Errors and completion: what a failed command changes, which codes a command raises, and that neither a command
nor a step stops the machine (R260 to R265). -/

namespace Sys2Proof.Machine

/-! ### Commit (R262) -/

/-- Settles O9: of the two ends a command can have, only the failed one has a code that is not 0. -/
theorem failedCommandChangesOnlyStatus : Obligations.FailedCommandChangesOnlyStatus := by
  intro i s t h herr
  rcases exec_next h with ⟨c, -, rfl⟩ | ⟨r0, r1, r2, sl, m, rfl, -, -⟩
  · rfl
  · exact absurd rfl herr

/-! ### The codes of a command (R260) -/

/-- The codes a command is listed under in the table of R260, besides code 0. -/
def listedCodes : Instr → List ErrorCode
  | .bufCreate _ _ | .nnScale _ _ _ | .blScale _ _ _ => [.invalidParameter, .allocationFailure]
  | .fxToFix | .mapCenter | .mapOrigin => [.invalidParameter, .overflow]
  | .fxFromInt | .fxAdd | .fxSub | .fxMul => [.overflow]
  | .fxDiv => [.divByZero, .overflow]
  | .mapStep | .clamp | .mapNeigh | .nnSample _ | .blSample _ => [.invalidParameter]
  | .nop | .bufRelease _ | .fxToFlt | .fxInt | .fxFrac => []

/-- A next state, if the outcome is one, has code 0 or one of `cs`. -/
def RaisesOnly (cs : List ErrorCode) (o : StepOutcome) : Prop :=
  ∀ t, o = .next t → t.err = .none ∨ t.err ∈ cs

section
variable {cs : List ErrorCode}

theorem raisesOnly_next {t : State} : RaisesOnly cs (.next t) ↔ t.err = .none ∨ t.err ∈ cs :=
  ⟨fun h => h t rfl, fun h _ e => Host.Outcome.next.inj e ▸ h⟩

theorem raisesOnly_fault (f : Fault) : RaisesOnly cs (.fault f) := nofun

theorem commit_raisesOnly (s : State) : RaisesOnly cs (commit s) := raisesOnly_next.2 (.inl rfl)

theorem raiseError_raisesOnly (s : State) {c : ErrorCode} (hc : c ∈ cs) : RaisesOnly cs (raiseError s c) :=
  raisesOnly_next.2 (.inr hc)

theorem RaisesOnly.ite {c : Prop} [Decidable c] {o o' : StepOutcome} (h : RaisesOnly cs o) (h' : RaisesOnly cs o') :
    RaisesOnly cs (if c then o else o') := by
  split
  · exact h
  · exact h'

theorem commitChecked_raisesOnly (s : State) (r : Int) (hc : .overflow ∈ cs) : RaisesOnly cs (commitChecked s r) :=
  .ite (commit_raisesOnly _) (raiseError_raisesOnly _ hc)

end

theorem execBufCreate_raisesOnly (ha : Handle) (ch : Nat) (s : State) :
    RaisesOnly [.invalidParameter, .allocationFailure] (execBufCreate ha ch s) := by
  have invalid : RaisesOnly [.invalidParameter, .allocationFailure] (raiseError s .invalidParameter) :=
    raiseError_raisesOnly s (by decide)
  refine .ite invalid <| .ite invalid <| .ite invalid ?_
  dsimp only
  split
  · exact raiseError_raisesOnly _ (by decide)
  · exact commit_raisesOnly _

theorem sampleWith_raisesOnly (K : Kernel) (h : Handle) (s : State) :
    RaisesOnly [.invalidParameter] (sampleWith K h s) :=
  .ite (raiseError_raisesOnly _ (by decide)) <| .ite (raisesOnly_fault _) (commit_raisesOnly _)

theorem scaleWith_raisesOnly (K : Kernel) (a b : Handle) (sk : ScaleKind) (s : State) :
    RaisesOnly [.invalidParameter, .allocationFailure] (scaleWith K a b sk s) := by
  rcases scaleWith_cases K a b sk s with ⟨-, e⟩ | ⟨q, -, -, -, -, ⟨-, e⟩ | ⟨-, ⟨-, e⟩ | ⟨u, -, e⟩⟩⟩ <;> rw [e]
  · exact raisesOnly_next.2 (.inr (by simp))
  · exact raisesOnly_fault _
  · exact raisesOnly_next.2 (.inr (by simp))
  · exact raisesOnly_next.2 (.inl rfl)

/-- No command raises a code it is not listed under: branch by branch, each error raised is one of its list. -/
theorem exec_raisesOnly (i : Instr) (s : State) : RaisesOnly (listedCodes i) (exec i s) := by
  cases i with
  | nop | fxToFlt | fxInt | fxFrac => exact commit_raisesOnly _
  | bufCreate ha ch => exact execBufCreate_raisesOnly ha ch s
  | bufRelease ha => exact .ite (commit_raisesOnly _) (commit_raisesOnly _)
  | fxToFix =>
    exact .ite (raiseError_raisesOnly _ (by decide)) <|
      .ite (raiseError_raisesOnly _ (by decide)) (commitChecked_raisesOnly _ _ (by decide))
  | fxFromInt | fxAdd | fxSub | fxMul => exact commitChecked_raisesOnly _ _ (by decide)
  | fxDiv | mapOrigin => exact .ite (raiseError_raisesOnly _ (by decide)) (commitChecked_raisesOnly _ _ (by decide))
  | mapStep | clamp | mapNeigh => exact .ite (raiseError_raisesOnly _ (by decide)) (commit_raisesOnly _)
  | mapCenter =>
    exact .ite (raiseError_raisesOnly _ (by decide)) <|
      .ite (raiseError_raisesOnly _ (by decide)) (commit_raisesOnly _)
  | nnSample ha => exact sampleWith_raisesOnly nnValue ha s
  | blSample ha => exact sampleWith_raisesOnly blValue ha s
  | nnScale ha hb sk => exact scaleWith_raisesOnly nnValue ha hb sk s
  | blScale ha hb sk => exact scaleWith_raisesOnly blValue ha hb sk s

/-- A code other than 0 that a command ends with is one it is listed under. -/
theorem mem_listedCodes_of_exec {i : Instr} {s t : State} (h : exec i s = .next t) {c : ErrorCode} (hc : c ≠ .none)
    (herr : t.err = c) : c ∈ listedCodes i :=
  herr ▸ (exec_raisesOnly i s t h).resolve_left (herr ▸ hc)

/-! The rows of the table, read by code. -/

theorem of_invalidParameter_listed {i : Instr} (h : .invalidParameter ∈ listedCodes i) :
    i ≠ .nop ∧ (∀ a, i ≠ .bufRelease a) ∧ i ≠ .fxToFlt ∧ i ≠ .fxFromInt ∧ i ≠ .fxAdd ∧ i ≠ .fxSub ∧ i ≠ .fxMul ∧
      i ≠ .fxDiv ∧ i ≠ .fxInt ∧ i ≠ .fxFrac := by
  cases i with
  | nop | bufRelease _ | fxToFlt | fxFromInt | fxAdd | fxSub | fxMul | fxDiv | fxInt | fxFrac => simp [listedCodes] at h
  | _ => simp

theorem of_allocationFailure_listed {i : Instr} (h : .allocationFailure ∈ listedCodes i) :
    (∃ a k, i = .bufCreate a k) ∨ (∃ a b k, i = .nnScale a b k) ∨ ∃ a b k, i = .blScale a b k := by
  cases i with
  | bufCreate a k => exact .inl ⟨a, k, rfl⟩
  | nnScale a b k => exact .inr (.inl ⟨a, b, k, rfl⟩)
  | blScale a b k => exact .inr (.inr ⟨a, b, k, rfl⟩)
  | _ => simp [listedCodes] at h

theorem of_divByZero_listed {i : Instr} (h : .divByZero ∈ listedCodes i) : i = .fxDiv := by
  cases i with
  | fxDiv => rfl
  | _ => simp [listedCodes] at h

theorem of_overflow_listed {i : Instr} (h : .overflow ∈ listedCodes i) :
    i = .fxToFix ∨ i = .fxFromInt ∨ i = .fxAdd ∨ i = .fxSub ∨ i = .fxMul ∨ i = .fxDiv ∨ i = .mapCenter ∨
      i = .mapOrigin := by
  cases i with
  | fxToFix | fxFromInt | fxAdd | fxSub | fxMul | fxDiv | mapCenter | mapOrigin => simp
  | _ => simp [listedCodes] at h

theorem illegalCommand_not_listed (i : Instr) : .illegalCommand ∉ listedCodes i := by
  cases i <;> simp [listedCodes]

/-- Settles O10: the code a command ends with is one it is listed under, and the table is read by code. -/
theorem commandsRaiseOnlyTheirListedCodes : Obligations.CommandsRaiseOnlyTheirListedCodes := by
  intro i s t h
  exact ⟨fun e => of_invalidParameter_listed (mem_listedCodes_of_exec h (by decide) e),
    fun e => of_allocationFailure_listed (mem_listedCodes_of_exec h (by decide) e),
    fun e => of_divByZero_listed (mem_listedCodes_of_exec h (by decide) e),
    fun e => of_overflow_listed (mem_listedCodes_of_exec h (by decide) e),
    fun e => illegalCommand_not_listed i (mem_listedCodes_of_exec h (by decide) e)⟩

/-! ### No stop (R261, R265) -/

/-- Settles O12: the one fault needs a live slot that is not sound, which the invariant rules out. -/
theorem everyCommandCompletes : Obligations.EveryCommandCompletes := fun _ hs i =>
  (hs.exec_completes i).imp fun _ ⟨ht, _⟩ => ht

theorem hostTurn_next (s : State) : ∃ t, hostTurn s = .next t := by
  rcases hostTurn_cases s with ⟨-, e⟩ | ⟨i, rest, -, e⟩
  · exact ⟨_, e⟩
  · exact ⟨_, e⟩

/-- Settles O18: the engine's turn completes under the invariant, and the host's turn answers a next state in any state. -/
theorem noStepStopsTheMachine : Obligations.NoStepStopsTheMachine := by
  intro s hs
  rcases step_cases s with ⟨-, -, -, e⟩ | ⟨-, -, -, e⟩ | ⟨-, e⟩ <;> rw [e]
  · exact hs.popTurn.engineTurn_completes.imp fun _ ⟨ht, _⟩ => ht
  · exact hostTurn_next _
  · exact hostTurn_next _

end Sys2Proof.Machine
end

section
/-! PROOFS. The reset line: what its edges do, and that no access is accepted while it is asserted (R290 to R292). -/

namespace Sys2Proof.Machine

/-- Both edges of the line reset the block; they differ only in the level at which they leave the line (log 15). -/
theorem perform_resetEdge (s : State) (line : Bool) :
    perform s (if line then .resetAssert else .resetRelease) = applyReset s line := by
  cases line with
  | false => rfl
  | true => rfl

theorem perform_read_of_resetAsserted {s : State} (hr : s.resetAsserted = true) (addr n : Nat) :
    perform s (.read addr n) = respond s .noResponse := by
  rw [perform, if_pos hr]

theorem perform_write_of_resetAsserted {s : State} (hr : s.resetAsserted = true) (addr n : Nat) (v : Word) :
    perform s (.write addr n v) = respond s .noResponse := by
  rw [perform, if_pos hr]

/-- Settles O20: an edge is `applyReset`, whatever runs, and an asserted line answers every access with `noResponse`. -/
theorem resetLineResetsTheBlock : Obligations.ResetLineResetsTheBlock := fun s =>
  ⟨perform_resetEdge s, fun hr a n v =>
    ⟨perform_read_of_resetAsserted hr a n, perform_write_of_resetAsserted hr a n v⟩⟩

end Sys2Proof.Machine
end

section
/-! PROOFS. Unsound source slots: the sample and frame commands stop on a live source slot that breaks the slot clauses of
R40 (log 16). -/

namespace Sys2Proof.Machine

/-- The kernel plays no part: a sample command checks the slot before it reads a sample. -/
theorem sampleWith_of_unsound (K : Kernel) {h : Handle} {s : State} (hlive : (s.slot h).valid = true)
    (hunsound : ¬SoundSlot s.pixmemBytes (s.slot h)) : sampleWith K h s = .fault .unsoundDescriptor := by
  rcases sampleWith_cases K h s with ⟨hfree, -⟩ | ⟨-, -, hrun⟩ | ⟨-, hsound, -⟩
  · exact absurd (hfree.symm.trans hlive) (by decide)
  · exact hrun
  · exact absurd hsound hunsound

/-- Past its INVALID_PARAMETER checks a frame command looks at the source slot before it allocates. -/
theorem scaleWith_of_unsound (K : Kernel) {hs hd : Handle} {sk : ScaleKind} {s : State} {q : ℚ}
    (hlive : (s.slot hs).valid = true) (hunsound : ¬SoundSlot s.pixmemBytes (s.slot hs)) (hne : hd ≠ hs)
    (hfree : (s.slot hd).valid = false) (hq : Spec.IsScale sk s.latch.arg0 s.latch.arg1 q) :
    scaleWith K hs hd sk s = .fault .unsoundDescriptor := by
  obtain ⟨r, hr, -⟩ := (isScale_iff ..).1 hq
  rcases scaleWith_cases K hs hd sk s with ⟨hinvalid, -⟩ | ⟨_, -, -, -, -, ⟨-, hrun⟩ | ⟨hsound, -⟩⟩
  · simp [hlive, hne, hfree, hr] at hinvalid
  · exact hrun
  · exact absurd hsound hunsound

/-- Settles O53: the four commands are the shared sample and the shared resize, each with either kernel. -/
theorem unsoundSourceSlotFaults : Obligations.UnsoundSourceSlotFaults := by
  intro s hs hd sk hlive hunsound
  refine ⟨sampleWith_of_unsound nnValue hlive hunsound, sampleWith_of_unsound blValue hlive hunsound, ?_⟩
  rintro hne hfree ⟨q, hq⟩
  exact ⟨scaleWith_of_unsound nnValue hlive hunsound hne hfree hq,
    scaleWith_of_unsound blValue hlive hunsound hne hfree hq⟩

end Sys2Proof.Machine
end
